-- ==== Sys2Proof/Word.lean ====
section
/-! DEFINITION. The widths the spec fixes: 32-bit registers, addresses and instruction patterns (rules R8, R30, R32),
8-bit bytes of the program text (R51) and 4-bit register fields (R30). -/

namespace Sys2Proof

/-- A register value, an address or an instruction pattern: 32 bits, numbered 31 down to 0 (R8, R30, R32). -/
abbrev Word := BitVec 32

/-- One byte of the program text (R51). -/
abbrev Byte := BitVec 8

/-- The field `Rd`, `Rn` or `Rm` of an instruction: four bits, so register numbers run 0 to 15 (R30). -/
abbrev RegField := BitVec 4

end Sys2Proof
end

