-- ==== Sys2Proof/Config.lean ====
section
/-! DEFINITION. What an implementation fixes: the parameters of 00_scope.md rule R7.
The spec gives them to a run as arguments of its launch state (R150), so they are plain data, State carries them, no
instruction writes them, and every statement over all states holds for every value of them (log 1).
No instruction of the spec has an undefined result, so there is no free value. -/

namespace Sys2Proof.Config

/-- The instruction-set selector (R7, R38): which of the two diagrams a pattern is matched against. -/
inductive ISet where
  | a32
  | t32
deriving DecidableEq, Repr

/-- The behaviours the source permits for `size == 64` (R134). -/
inductive Size64Choice where
  /-- `Constraint_UNDEF`: the instruction is UNDEFINED. -/
  | undef
  /-- `Constraint_NOP`: the instruction does nothing but advance `pc`. -/
  | nop
  /-- `Constraint_ADDITIONAL_DECODE` with `size = 32;`: decoding continues as for CRC32W. -/
  | size32
deriving DecidableEq, Repr

/-- The behaviours the source permits for `cond != '1110'` in class A1 (R135). -/
inductive CondChoice where
  /-- `Constraint_UNDEF`. -/
  | undef
  /-- `Constraint_NOP`. -/
  | nop
  /-- `Constraint_UNCOND`: executes as if `cond` were `1110`, whatever the flags. -/
  | uncond
  /-- `Constraint_COND`: executes conditionally on the NZCV flags. -/
  | cond
deriving DecidableEq, Repr

/-- The parameters of R7 that are properties of the implementation, constant for a run. -/
structure Params where
  /-- `have_crc32`, the value of `HaveCRCExt()` (R5). -/
  haveCrc32 : Bool
  /-- `cu_size64` (R134); `none` is "absent". -/
  cuSize64 : Option Size64Choice
  /-- `cu_cond` (R135); `none` is "absent". -/
  cuCond : Option CondChoice
deriving DecidableEq, Repr

end Sys2Proof.Config
end

