-- ==== Sys2Proof/Syntax.lean ====
section
/-! DEFINITION. The instructions: one constructor for each of the six rows of spec/opcode_table.json (R2, R75), over the
operand fields of the two formats (R66, R72), and the assembler's view of an instruction (R80 to R83). -/

namespace Sys2Proof

/-- The fields of a class A1 word that its encoding leaves free (R66). -/
structure A1Operands where
  /-- Bits 31:28. The class excludes `1111`; only `1110` is defined (R70). -/
  cond : BitVec 4
  /-- Bits 19:16, the accumulator input register. -/
  rn : RegField
  /-- Bits 15:12, the accumulator output register. -/
  rd : RegField
  /-- The `(0)` bits 11, 10 and 8, in this order from the most significant; they are not part of the match (R71). -/
  sbz : BitVec 3
  /-- Bits 3:0, the data source register. -/
  rm : RegField
deriving DecidableEq, Repr

/-- The fields of a class T1 pattern that its encoding leaves free (R72): no `cond`, no `(0)` bit. -/
structure T1Operands where
  /-- Bits 19:16, the accumulator input register. -/
  rn : RegField
  /-- Bits 11:8, the accumulator output register. -/
  rd : RegField
  /-- Bits 3:0, the data source register. -/
  rm : RegField
deriving DecidableEq, Repr

/-- The six encodings (R2). -/
inductive Instr where
  /-- CRC32B_A1 (R105). -/
  | crc32bA1 (o : A1Operands)
  /-- CRC32H_A1 (R106). -/
  | crc32hA1 (o : A1Operands)
  /-- CRC32W_A1 (R107). -/
  | crc32wA1 (o : A1Operands)
  /-- CRC32B_T1 (R108). -/
  | crc32bT1 (o : T1Operands)
  /-- CRC32H_T1 (R109). -/
  | crc32hT1 (o : T1Operands)
  /-- CRC32W_T1 (R110). -/
  | crc32wT1 (o : T1Operands)
deriving DecidableEq, Repr

/-- The three assembler mnemonics (R2). -/
inductive Mnemonic where
  | crc32b
  | crc32h
  | crc32w
deriving DecidableEq, Repr

/-- The optional qualifier `<q>` (R81): omitted, `.N` or `.W`. -/
inductive Qualifier where
  | omitted
  | narrow
  | wide
deriving DecidableEq, Repr

/-- One line of assembly, `CRC32x<q> <Rd>, <Rn>, <Rm>`, with register names `R0` to `R14` (R80, R82). -/
structure AsmLine where
  mnemonic : Mnemonic
  qualifier : Qualifier
  rd : Fin 15
  rn : Fin 15
  rm : Fin 15
deriving DecidableEq, Repr

end Sys2Proof
end

