-- ==== Sys2Proof/WellFormed.lean ====
section
/-! DEFINITION. Which terms of Instr are encodings of the spec (`wellFormed`), and which of those are the defined
instructions an assembler can write (`isDefined`). The machine gives a meaning to every well-formed term, defined or not. -/

namespace Sys2Proof

/-- A1 excludes `cond == 1111`: such a word is not an instruction of this section (R66, R70). -/
def A1Operands.wellFormed (o : A1Operands) : Bool :=
  o.cond != 0b1111#4

/-- The term is one the encodings admit. Every T1 term is: the T1 diagram constrains no field (R72). -/
def Instr.wellFormed : Instr → Bool
  | .crc32bA1 o => o.wellFormed
  | .crc32hA1 o => o.wellFormed
  | .crc32wA1 o => o.wellFormed
  | .crc32bT1 _ => true
  | .crc32hT1 _ => true
  | .crc32wT1 _ => true

/-- The A1 fields of a defined instruction: `cond == 1110` (R70), the `(0)` bits zero (R71), no register 15 (R132). -/
def A1Operands.isDefined (o : A1Operands) : Bool :=
  o.cond == 0b1110#4 && o.sbz == 0b000#3 && o.rd != 15#4 && o.rn != 15#4 && o.rm != 15#4

/-- The T1 fields of a defined instruction: no register 15 (R132). -/
def T1Operands.isDefined (o : T1Operands) : Bool :=
  o.rd != 15#4 && o.rn != 15#4 && o.rm != 15#4

/-- The instruction is one that assembly can express (R82, R83). -/
def Instr.isDefined : Instr → Bool
  | .crc32bA1 o => o.isDefined
  | .crc32hA1 o => o.isDefined
  | .crc32wA1 o => o.isDefined
  | .crc32bT1 o => o.isDefined
  | .crc32hT1 o => o.isDefined
  | .crc32wT1 o => o.isDefined

end Sys2Proof
end

