-- ==== Sys2Proof/Decode.lean ====
section
/-! DEFINITION. Decoding steps (1) to (4) of rule R76, total on any bytes and rejecting by name; the byte order of an
instruction (R52); the encoder (R66, R72); the assembler (R80 to R84); and `decodeTableWord`.
Steps (5) to (7) of R76, the tests of the Decode blocks, depend on the state and are the machine's. -/

namespace Sys2Proof

open Sys2Proof.Config (ISet)

/-- Why bytes are not an instruction of this spec (R76): the model refuses them as undecoded. -/
inductive Undecoded where
  /-- The pattern fails the class match of the A1 diagram (R67, R76 step 2); patterns with `C == 1` are among them (R77). -/
  | outsideClassA1
  /-- The pattern fails the class match of the T1 diagram (R73, R76 step 2); patterns with `C == 1` are among them (R77). -/
  | outsideClassT1
  /-- The pattern matches the A1 diagram but for `cond == 1111` (R70, R76 step 3). -/
  | condition1111
  /-- Not four bytes: every encoding is 32 bits long (R65). -/
  | notFourBytes
deriving DecidableEq, Repr

/-- What the bits of an instruction are. -/
inductive Decoded where
  /-- One of the six encodings. -/
  | instr (i : Instr)
  /-- In class A1 with `sz == 11`: none of the six encodings, CONSTRAINED UNPREDICTABLE (R67, R134). -/
  | size64A1 (o : A1Operands)
  /-- In class T1 with `sz == 11`: none of the six encodings, CONSTRAINED UNPREDICTABLE (R73, R134). -/
  | size64T1 (o : T1Operands)
  /-- No instruction of this spec. -/
  | undecoded (why : Undecoded)
deriving DecidableEq, Repr

/-- The class match of the A1 diagram: class mask and class match of R67. -/
def inClassA1 (w : Word) : Bool :=
  decide (w &&& 0x0F9002F0#32 = 0x01000040#32)

/-- The class match of the T1 diagram: class mask and class match of R73. -/
def inClassT1 (w : Word) : Bool :=
  decide (w &&& 0xFFF0F0C0#32 = 0xFAC0F080#32)

/-- The fields of an A1 word (R66): note that `Rn` is above `Rd`. -/
def fieldsA1 (w : Word) : A1Operands where
  cond := w.extractLsb' 28 4
  rn := w.extractLsb' 16 4
  rd := w.extractLsb' 12 4
  sbz := w.extractLsb' 10 2 ++ w.extractLsb' 8 1
  rm := w.extractLsb' 0 4

/-- The field `sz` of an A1 word, bits 22:21 (R66). -/
def szA1 (w : Word) : BitVec 2 :=
  w.extractLsb' 21 2

/-- The fields of a T1 pattern (R72). -/
def fieldsT1 (w : Word) : T1Operands where
  rn := w.extractLsb' 16 4
  rd := w.extractLsb' 8 4
  rm := w.extractLsb' 0 4

/-- The field `sz` of a T1 pattern, bits 5:4 (R72). -/
def szT1 (w : Word) : BitVec 2 :=
  w.extractLsb' 4 2

/-- The A1 encodings by `sz` (R75), and `sz == 11` (R77). -/
def selectA1 (sz : BitVec 2) (o : A1Operands) : Decoded :=
  if sz = 0b00#2 then .instr (.crc32bA1 o)
  else if sz = 0b01#2 then .instr (.crc32hA1 o)
  else if sz = 0b10#2 then .instr (.crc32wA1 o)
  else .size64A1 o

/-- The T1 encodings by `sz` (R75), and `sz == 11` (R77). -/
def selectT1 (sz : BitVec 2) (o : T1Operands) : Decoded :=
  if sz = 0b00#2 then .instr (.crc32bT1 o)
  else if sz = 0b01#2 then .instr (.crc32hT1 o)
  else if sz = 0b10#2 then .instr (.crc32wT1 o)
  else .size64T1 o

/-- Steps (1) to (4) of R76 on a 32-bit pattern. The pattern is only ever tried against the diagram of `iset` (R38). -/
def decode (iset : ISet) (w : Word) : Decoded :=
  match iset with
  | .a32 =>
    if inClassA1 w then
      if w.extractLsb' 28 4 = 0b1111#4 then .undecoded .condition1111
      else selectA1 (szA1 w) (fieldsA1 w)
    else .undecoded .outsideClassA1
  | .t32 =>
    if inClassT1 w then selectT1 (szT1 w) (fieldsT1 w)
    else .undecoded .outsideClassT1

/-- The diagram pattern of four bytes in address order (R52): in A32 one little-endian word; in T32 two little-endian
halfwords, the one at the lower address being diagram bits 31:16. -/
def patternOfBytes (iset : ISet) (b0 b1 b2 b3 : Byte) : Word :=
  match iset with
  | .a32 => b3 ++ b2 ++ b1 ++ b0
  | .t32 => (b1 ++ b0) ++ (b3 ++ b2)

/-- The bytes of a diagram pattern in address order, the reverse of `patternOfBytes` (R52). -/
def bytesOfPattern (iset : ISet) (w : Word) : List Byte :=
  match iset with
  | .a32 => [w.extractLsb' 0 8, w.extractLsb' 8 8, w.extractLsb' 16 8, w.extractLsb' 24 8]
  | .t32 => [w.extractLsb' 16 8, w.extractLsb' 24 8, w.extractLsb' 0 8, w.extractLsb' 8 8]

/-- The decoder on bytes in address order. In T32 it always takes two halfwords (R79). -/
def decodeBytes (iset : ISet) : List Byte → Decoded
  | [b0, b1, b2, b3] => decode iset (patternOfBytes iset b0 b1 b2 b3)
  | _ => .undecoded .notFourBytes

/-! ### The encoder -/

/-- The A1 word of a value of `sz` and operand fields, box by box from the diagram (R66); `C` is the fixed bit 9. -/
def encodeA1 (sz : BitVec 2) (o : A1Operands) : Word :=
  o.cond ++ 0b00010#5 ++ sz ++ 0b0#1 ++ o.rn ++ o.rd ++ o.sbz.extractLsb' 1 2 ++ 0b0#1 ++ o.sbz.extractLsb' 0 1
    ++ 0b0100#4 ++ o.rm

/-- The T1 pattern of a value of `sz` and operand fields, box by box from the diagram (R72); `C` is the fixed bit 20. -/
def encodeT1 (sz : BitVec 2) (o : T1Operands) : Word :=
  0b111110101#9 ++ 0b10#2 ++ 0b0#1 ++ o.rn ++ 0b1111#4 ++ o.rd ++ 0b10#2 ++ sz ++ o.rm

/-- The instruction set an encoding belongs to (R2). -/
def Instr.iset : Instr → ISet
  | .crc32bA1 _ => .a32
  | .crc32hA1 _ => .a32
  | .crc32wA1 _ => .a32
  | .crc32bT1 _ => .t32
  | .crc32hT1 _ => .t32
  | .crc32wT1 _ => .t32

/-- The field `Rd`, the accumulator output register (R100). -/
def Instr.rdField : Instr → RegField
  | .crc32bA1 o => o.rd
  | .crc32hA1 o => o.rd
  | .crc32wA1 o => o.rd
  | .crc32bT1 o => o.rd
  | .crc32hT1 o => o.rd
  | .crc32wT1 o => o.rd

/-- The field `Rn`, the accumulator input register (R100). -/
def Instr.rnField : Instr → RegField
  | .crc32bA1 o => o.rn
  | .crc32hA1 o => o.rn
  | .crc32wA1 o => o.rn
  | .crc32bT1 o => o.rn
  | .crc32hT1 o => o.rn
  | .crc32wT1 o => o.rn

/-- The field `Rm`, the data source register (R100). -/
def Instr.rmField : Instr → RegField
  | .crc32bA1 o => o.rm
  | .crc32hA1 o => o.rm
  | .crc32wA1 o => o.rm
  | .crc32bT1 o => o.rm
  | .crc32hT1 o => o.rm
  | .crc32wT1 o => o.rm

/-- The value of the field `sz` that selects an encoding (R75). -/
def Instr.szField : Instr → BitVec 2
  | .crc32bA1 _ => 0b00#2
  | .crc32hA1 _ => 0b01#2
  | .crc32wA1 _ => 0b10#2
  | .crc32bT1 _ => 0b00#2
  | .crc32hT1 _ => 0b01#2
  | .crc32wT1 _ => 0b10#2

/-- The 32-bit diagram pattern of an instruction (R66, R72, R75). -/
def encode : Instr → Word
  | .crc32bA1 o => encodeA1 0b00#2 o
  | .crc32hA1 o => encodeA1 0b01#2 o
  | .crc32wA1 o => encodeA1 0b10#2 o
  | .crc32bT1 o => encodeT1 0b00#2 o
  | .crc32hT1 o => encodeT1 0b01#2 o
  | .crc32wT1 o => encodeT1 0b10#2 o

/-- The bytes of an instruction in address order (R52). -/
def encodeBytes (i : Instr) : List Byte :=
  bytesOfPattern i.iset (encode i)

/-! ### The assembler -/

/-- The A1 fields of a line: always `cond = 1110` (R83), the `(0)` bits zero (R84). -/
def AsmLine.fieldsA1 (l : AsmLine) : A1Operands where
  cond := 0b1110#4
  rn := BitVec.ofNat 4 l.rn.val
  rd := BitVec.ofNat 4 l.rd.val
  sbz := 0b000#3
  rm := BitVec.ofNat 4 l.rm.val

/-- The T1 fields of a line (R84). -/
def AsmLine.fieldsT1 (l : AsmLine) : T1Operands where
  rn := BitVec.ofNat 4 l.rn.val
  rd := BitVec.ofNat 4 l.rd.val
  rm := BitVec.ofNat 4 l.rm.val

/-- Assembling (R84). `.N` must be rejected, since all six encodings are 32 bits; `.W` has no effect (R81). -/
def assemble (iset : ISet) (l : AsmLine) : Option Instr :=
  match l.qualifier with
  | .narrow => none
  | .omitted | .wide =>
    match iset, l.mnemonic with
    | .a32, .crc32b => some (.crc32bA1 l.fieldsA1)
    | .a32, .crc32h => some (.crc32hA1 l.fieldsA1)
    | .a32, .crc32w => some (.crc32wA1 l.fieldsA1)
    | .t32, .crc32b => some (.crc32bT1 l.fieldsT1)
    | .t32, .crc32h => some (.crc32hT1 l.fieldsT1)
    | .t32, .crc32w => some (.crc32wT1 l.fieldsT1)

/-- The line of a mnemonic and three register fields, `none` where one of them is 15, which is not a defined operand
(R82). The qualifier is in no field, so it is omitted (R81). -/
def lineOfFields (mn : Mnemonic) (rd rn rm : RegField) : Option AsmLine :=
  if hd : rd.toNat < 15 then
    if hn : rn.toNat < 15 then
      if hm : rm.toNat < 15 then some ⟨mn, .omitted, ⟨rd.toNat, hd⟩, ⟨rn.toNat, hn⟩, ⟨rm.toNat, hm⟩⟩ else none
    else none
  else none

/-- Disassembling reverses assembling (R84); an instruction that is not defined has no line (R83). -/
def disassemble (i : Instr) : Option AsmLine :=
  if i.isDefined then
    match i with
    | .crc32bA1 o => lineOfFields .crc32b o.rd o.rn o.rm
    | .crc32hA1 o => lineOfFields .crc32h o.rd o.rn o.rm
    | .crc32wA1 o => lineOfFields .crc32w o.rd o.rn o.rm
    | .crc32bT1 o => lineOfFields .crc32b o.rd o.rn o.rm
    | .crc32hT1 o => lineOfFields .crc32h o.rd o.rn o.rm
    | .crc32wT1 o => lineOfFields .crc32w o.rd o.rn o.rm
  else none

/-- The mnemonic as it is written (R2, R80). -/
def Mnemonic.text : Mnemonic → String
  | .crc32b => "CRC32B"
  | .crc32h => "CRC32H"
  | .crc32w => "CRC32W"

/-- The qualifier as it is written (R81). -/
def Qualifier.text : Qualifier → String
  | .omitted => ""
  | .narrow => ".N"
  | .wide => ".W"

/-- A register name, `R0` to `R14` (R82). -/
def regText (i : Fin 15) : String :=
  "R" ++ toString i.val

/-- A line as it is written, by the template of R80: the destination first, the accumulator input second, the data register
third; the comma and space are literal. -/
def AsmLine.text (l : AsmLine) : String :=
  l.mnemonic.text ++ l.qualifier.text ++ " " ++ regText l.rd ++ ", " ++ regText l.rn ++ ", " ++ regText l.rm

/-! ### The opcode table's numbering -/

/-- The pattern of `nbits` bits that spec/opcode_table.json numbers as `w`: for both classes the table numbers the bits
as the diagrams do, with a T1 pattern's first halfword in bits 31:16 (log 28). Bits above `nbits` are 0. -/
def tablePattern (nbits w : Nat) : Word :=
  BitVec.ofNat 32 (w % 2 ^ nbits)

/-- The instruction set of a row's word. The table's words carry no selector; the class matches of R67 and R73 are
disjoint, so a T1 pattern is one in class T1 and any other word is taken as A32's (log 28). -/
def tableISet (nbits w : Nat) : ISet :=
  if inClassT1 (tablePattern nbits w) then .t32 else .a32

/-- The instruction the decoder reads from the bytes of a row's word. -/
def decodeTableWord (nbits w : Nat) : Option Instr :=
  match decodeBytes (tableISet nbits w) (bytesOfPattern (tableISet nbits w) (tablePattern nbits w)) with
  | .instr i => some i
  | .size64A1 _ => none
  | .size64T1 _ => none
  | .undecoded _ => none

end Sys2Proof
end

