-- ==== Sys2Proof/Machine/State.lean ====
section
/-! DEFINITION. The state of the machine (10_state.md), the reasons a step can stop, the single-field updates, and the
state after reset. -/

namespace Sys2Proof.Machine

open Sys2Proof.Config (ISet Params Size64Choice CondChoice)

/-- The program text: the finite map from byte addresses to bytes of R51, as pairs with strictly rising addresses. -/
abbrev Memory := List Host.Cell

/-- The condition flags the condition check reads (R34). Their places in CPSR are not in the source. -/
structure NZCV where
  n : Bool
  z : Bool
  c : Bool
  v : Bool
deriving DecidableEq, Repr

/-- Every piece of state the spec names (R27, R40, R44, R45), and the record of R153's "after a completed instruction". It is
also the launch state of R150. -/
structure State where
  /-- The registers `x[0]` to `x[14]` (R30). Register number 15 is none of them (R31). -/
  x : Vector Word 15
  /-- The address of the first byte of the current instruction (R32). -/
  pc : Word
  /-- N, Z, C, V (R34): written by no instruction. -/
  nzcv : NZCV
  /-- CPSR.DIT (R36): a promise about timing only (R154), read and written by no instruction. -/
  dit : Bool
  /-- The IT state (R37): read by the T1 Decode, written by no instruction in scope. -/
  inItBlock : Bool
  /-- The instruction-set selector (R38), constant for a run. -/
  iset : ISet
  /-- The implementation's parameters (R7), constant for a run. -/
  params : Params
  /-- The program text (R51), immutable for a run (R54). -/
  mem : Memory
  /-- An instruction has completed in this run: the model's record of R153's "after a completed instruction" (log 13). A
  launch has FALSE, the advance of a completed instruction sets it, and only the end of a run reads it. -/
  completed : Bool
deriving DecidableEq, Repr

/-- How a step stops without a next state where the spec gives an event that ends the run. -/
inductive Fault where
  /-- `raise Undefined(pc)`: raised when the implementation lacks the feature (R130) or chooses UNDEF for a constrained
  case (R134, R135). Records the address and the 32-bit pattern; no state changes, no handler runs (R137). Safe: the spec's
  own terminal outcome (decision D4), where hardware would go on into a handler. -/
  | undefined (pc : Word) (pattern : Word)
  /-- Raised by the fetch of a byte the program text does not cover (R51): the PE is stuck. A launch just past the text is
  such a case, as no instruction has completed. Safe: the text's end is the model's boundary. -/
  | fetchOutsideText (address : Nat)
  /-- Raised by a step from `pc` just past the last byte of the program text after a completed instruction: the run is over
  (R153). Safe: nothing is said of what the chip finds there. -/
  | runOver
deriving DecidableEq, Repr

/-- How a step stops because the spec gives the case no meaning. Each is safe: a claim may become unprovable, no false
one provable. -/
inductive Refusal where
  /-- Raised by `exec` alone, for an instruction that has no meaning yet; no arm does. Safe. -/
  | notModelled (mnemonic : String)
  /-- Raised by the step when the fetched pattern is no instruction of this spec (R70, R76, R77). Safe. -/
  | undecoded (why : Undecoded)
  /-- `refuse Unpredictable(reg15)`: raised when `Rd`, `Rn` or `Rm` is `1111` (R132). Safe. -/
  | unpredictableReg15
  /-- `refuse Unpredictable(it_block)`: raised by a T1 encoding in an IT block (R133). Safe. -/
  | unpredictableItBlock
  /-- `refuse Unpredictable(size64)`: raised for `sz == 11` when `cu_size64` is absent (R134). Safe. -/
  | unpredictableSize64
  /-- `refuse Unpredictable(cond)`: raised for an A1 `cond` other than `1110` when `cu_cond` is absent (R135). Safe. -/
  | unpredictableCond
  /-- Raised for an A1 `cond` other than `1110` when `cu_cond` is COND: "a model built from this spec alone cannot offer it
  and must refuse it" (R135). Safe. -/
  | conditionTableAbsent
  /-- Raised for an A1 word with one of the `(0)` bits 11, 10, 8 set, where its Decode block has raised nothing (R71). Safe. -/
  | shouldBeZeroBitSet
  /-- Raised by the step when `pc` is not aligned for the instruction set (R33, R53, decision D11). Safe. -/
  | misalignedPc
  /-- Raised when an instruction would complete and `pc + 4` reaches 2^32 (R33, decision D11). Safe. -/
  | pcWrap
deriving DecidableEq, Repr

/-- What a step answers. -/
abbrev Result := Host.Outcome State Fault Refusal

/-- The state with register `i` holding `v`. -/
def State.setX (s : State) (i : Fin 15) (v : Word) : State :=
  { s with x := s.x.set i v }

/-- The state with the program counter at `a`. -/
def State.setPc (s : State) (a : Word) : State :=
  { s with pc := a }

/-- The state with the program text `m`. -/
def State.setMem (s : State) (m : Memory) : State :=
  { s with mem := m }

/-- The state with the instruction set `i` selected. -/
def State.setISet (s : State) (i : ISet) : State :=
  { s with iset := i }

/-- The state with the record of a completed instruction at `b`. -/
def State.setCompleted (s : State) (b : Bool) : State :=
  { s with completed := b }

/-- One launch (R150). The source states no reset value at all (R45): every value here is the model's DESIGN CHOICE,
unsafe, named in logs 1 to 4; there is no program text (log 14), and no instruction has completed (log 13). -/
def State.reset : State where
  x := Vector.replicate 15 0#32
  pc := 0#32
  nzcv := { n := false, z := false, c := false, v := false }
  dit := false
  inItBlock := false
  iset := ISet.a32
  params := { haveCrc32 := true, cuSize64 := some Size64Choice.size32, cuCond := some CondChoice.uncond }
  mem := []
  completed := false

end Sys2Proof.Machine
end

