-- ==== Sys2Proof/Machine/Ops.lean ====
section
/-! DEFINITION. The named operations the meanings share: the pseudocode primitives (R15 to R18), the CRC functions
(R102 to R104), registers (R19, R30), program text (R51), sequencing (R33), and the UNDEFINED exception (R130). -/

namespace Sys2Proof.Machine

open Sys2Proof.Config (ISet)

/-! ### Pseudocode primitives -/

/-- `BitReverse` (R17): bit `N-1-i` of the result is bit `i` of the argument. -/
def bitReverse {n : Nat} (x : BitVec n) : BitVec n :=
  x.reverse

/-- The loop of `Poly32Mod2` (R18), from bit `i = 32 + k - 1` down to bit 32: where bit `i` is set, the polynomial is
added with its coefficient 31 at bit `i - 1`. -/
def polyModLoop {n : Nat} (poly : Word) : Nat → BitVec n → BitVec n
  | 0, data => data
  | k + 1, data =>
    polyModLoop poly k (if data.getLsbD (32 + k) then data ^^^ (poly.setWidth n <<< k) else data)

/-- `Poly32Mod2` (R18): the remainder over the two-element field by the degree-32 polynomial whose lower coefficients are
`poly`. PRESUMED with the spec: its body is from general knowledge (log 16). -/
def polyMod32 {n : Nat} (data : BitVec n) (poly : Word) : Word :=
  (polyModLoop poly (n - 32) data).setWidth 32

/-! ### The CRC function -/

/-- `poly` of the Execute block (R102). -/
def crcPoly (crc32c : Bool) : Word :=
  if crc32c then 0x1EDC6F41#32 else 0x04C11DB7#32

/-- The value the Execute block writes to `R[d]`, statement by statement (R101, R103): `acc` is `R[n]` and `v` is `R[m]`,
of which the low `size` bits are used. -/
def crcExecute (crc32c : Bool) (size : Nat) (acc v : Word) : Word :=
  let val : BitVec size := v.setWidth size
  let tempacc : BitVec (32 + size) := bitReverse acc ++ 0#size
  let tempval : BitVec (32 + size) := (bitReverse val ++ 0#32).cast (Nat.add_comm size 32)
  bitReverse (polyMod32 (tempacc ^^^ tempval) (crcPoly crc32c))

/-- `crc32_step(acc, v, size)` (R104): the value R103 writes, for the polynomial every encoding of this spec selects. -/
def crc32Step (acc v : Word) (size : Nat) : Word :=
  crcExecute false size acc v

/-- `k` rounds of the shift-and-xor form of R104, with the reflected polynomial `p`. -/
def crcShiftLoop (p : Word) : Nat → Word → Word
  | 0, c => c
  | k + 1, c => crcShiftLoop p k (if c.getLsbD 0 then (c >>> 1) ^^^ p else c >>> 1)

/-- The shift-and-xor form of R104, the spec's convenience. No meaning uses it: R103's form is the normative one. -/
def crcShift (p : Word) (acc v : Word) (size : Nat) : Word :=
  crcShiftLoop p size (acc ^^^ (v.setWidth size).setWidth 32)

/-! ### Registers -/

/-- `R[n]` read (R19): the registers are one flat file with no hardwired value (R30). -/
def readReg (s : State) (i : Fin 15) : Word :=
  s.x[i]

/-- `R[n]` write (R19): the write replaces the whole register. -/
def writeReg (s : State) (i : Fin 15) (v : Word) : State :=
  s.setX i v

/-- ID_ISAR5.CRC32 (R6, R39): no state, the image of `have_crc32`; one field for both instruction sets. -/
def idIsar5Crc32 (s : State) : Bool :=
  s.params.haveCrc32

/-! ### Program text -/

/-- What an address the text does not list reads as (R51): no value, so that a fetch from it is stuck (log 12). -/
def unlistedByte : Option Byte :=
  none

/-- One past the highest address of the 32-bit address space (R51). -/
def addressLimit : Nat :=
  2 ^ 32

/-- The byte listed at an address. -/
def lookupByte : Memory → Nat → Option Byte
  | [], _ => unlistedByte
  | (k, v) :: rest, a => if a = k then some v else lookupByte rest a

/-- The byte the text holds at an address (R51); an address outside the address space holds none. -/
def readByte (m : Memory) (a : Nat) : Option Byte :=
  if a < addressLimit then lookupByte m a else none

/-- The list with `v` at address `a`, in address order. -/
def insertByte : Memory → Nat → Byte → Memory
  | [], a, v => [(a, v)]
  | (k, w) :: rest, a, v =>
    if a < k then (a, v) :: (k, w) :: rest
    else if a = k then (a, v) :: rest
    else (k, w) :: insertByte rest a v

/-- Place one byte of program text, part of making a launch state (R150). No instruction stores (R50), and an address
outside the address space takes none. No byte equals what an unlisted address reads as, so no write removes an entry. -/
def writeByte (m : Memory) (a : Nat) (v : Byte) : Memory :=
  if a < addressLimit then insertByte m a v else m

/-- Place bytes at rising addresses. -/
def writeBytes : Memory → Nat → List Byte → Memory
  | m, _, [] => m
  | m, a, b :: bs => writeBytes (writeByte m a b) (a + 1) bs

/-- `MemRead(addr, n)` as bytes in address order (R25, R52), or the first address the text does not cover. -/
def memRead (m : Memory) (a : Nat) : Nat → Except Nat (List Byte)
  | 0 => .ok []
  | n + 1 =>
    match readByte m a with
    | none => .error a
    | some b =>
      match memRead m (a + 1) n with
      | .ok bs => .ok (b :: bs)
      | .error e => .error e

/-- Every address is at least `lo`, within the address space and above the one before it, and no entry is what an
unlisted address reads as. -/
def wfFrom : Nat → Memory → Bool
  | _, [] => true
  | lo, (k, v) :: rest =>
    decide (lo ≤ k) && decide (k < addressLimit) && (some v != unlistedByte) && wfFrom (k + 1) rest

/-- The canonical form of the program text: equal texts are equal lists. -/
def Memory.wf (m : Memory) : Bool :=
  wfFrom 0 m

/-- The address just past the last byte of the program text (R153), one more than the highest address listed; an empty text
has none. -/
def textEnd : Memory → Option Nat
  | [] => none
  | (k, _) :: rest =>
    match textEnd rest with
    | none => some (k + 1)
    | some e => some (max (k + 1) e)

/-! ### Sequencing and the UNDEFINED exception -/

/-- The alignment of `pc` for the instruction set (R33, R53): 4 in A32, 2 in T32. -/
def pcAlignment : ISet → Nat
  | .a32 => 4
  | .t32 => 2

/-- `pc` is a multiple of its alignment. -/
def pcAligned (s : State) : Bool :=
  s.pc.toNat % pcAlignment s.iset == 0

/-- The test of R153: an instruction has completed and `pc` equals the address just past the last byte of the text. -/
def atRunEnd (s : State) : Bool :=
  s.completed && textEnd s.mem == some s.pc.toNat

/-- The state after a completed instruction: `pc <- pc + 4` (R33), and the record that one has completed (R153). -/
def completeAt (s : State) : State :=
  (s.setPc (s.pc + 4#32)).setCompleted true

/-- The advance of a completed instruction (R33); a `pc + 4` that reaches 2^32 is refused (decision D11, log 9). -/
def advancePc (s : State) : Result :=
  if s.pc.toNat + 4 < addressLimit then .next (completeAt s) else .refused .pcWrap

/-- Taking the one exception of the spec, `raise Undefined(pc)` (R130, R137): a terminal fault that records the address of
the instruction and its 32-bit pattern. The spec defines nothing that is saved, no mode, no vector and no return. -/
def raiseUndefined (pattern : Word) (s : State) : Result :=
  .fault (.undefined s.pc pattern)

end Sys2Proof.Machine
end

