-- ==== Sys2Proof/Machine/Flags.lean ====
section
/-! DEFINITION. The condition check. No instruction of the spec computes or writes a flag (R34); the flags are read only
by `ConditionPassed()` (R20). -/

namespace Sys2Proof.Machine

/-- The condition of a defined A1 instruction (R70), which passes whatever the flags. -/
def alwaysCondition : BitVec 4 :=
  0b1110#4

/-- `ConditionPassed()` (R20) for a value of `cond`: `1110` passes whatever the flags. What the other values test is not in
the spec (N22), so they have no answer (log 5). -/
def conditionPassed (cond : BitVec 4) (_flags : NZCV) : Option Bool :=
  if cond = alwaysCondition then some true else none

end Sys2Proof.Machine
end

