-- ==== Sys2Proof/Machine/Operands.lean ====
section
/-! DEFINITION. What the Decode blocks assign (R68) and how they treat the two constrained cases (R131, R134, R135). -/

namespace Sys2Proof.Machine

open Sys2Proof.Config (Size64Choice CondChoice)

/-- The register numbers `d`, `n`, `m` of an instruction that names no register 15. -/
structure RegNums where
  d : Fin 15
  n : Fin 15
  m : Fin 15
deriving DecidableEq, Repr

/-- `UInt` of one register field (R68), `none` for 15, which is no register of the machine (R31). -/
def regNum (f : RegField) : Option (Fin 15) :=
  if h : f.toNat < 15 then some ⟨f.toNat, h⟩ else none

/-- `d = UInt(Rd); n = UInt(Rn); m = UInt(Rm);`, `none` where `d == 15 || n == 15 || m == 15` (R68, R132). -/
def regNums (rd rn rm : RegField) : Option RegNums :=
  match regNum rd, regNum rn, regNum rm with
  | some d, some n, some m => some ⟨d, n, m⟩
  | _, _, _ => none

/-- `size = 8 << UInt(sz)` (R12, R68). -/
def sizeOfSz (sz : BitVec 2) : Nat :=
  8 <<< sz.toNat

/-- `crc32c = (C == '1')` (R68). -/
def crc32cOfC (c : BitVec 1) : Bool :=
  c == 1#1

/-- The value both diagrams fix for the field `C` (R66, R72, 90_conflicts.md C1). -/
def fixedC : BitVec 1 :=
  0#1

/-- How a test that may be CONSTRAINED UNPREDICTABLE comes out (R131). -/
inductive Resolution (α : Type) where
  /-- Decoding goes on with this value. -/
  | proceed (a : α)
  /-- UNDEF: the outcome of R130. -/
  | undefined
  /-- NOP: the instruction does nothing but advance `pc` (R33, R134). -/
  | nop
  /-- The model gives it no meaning. -/
  | refuse (r : Refusal)
deriving DecidableEq, Repr

/-- Carry out a resolution: the first UNDEFINED or UNPREDICTABLE reached ends the block (R24). `asNop` is what the class does
with an instruction that is a NOP. -/
def resolve {α : Type} (r : Resolution α) (pattern : Word) (s : State) (asNop : Result) (goOn : α → Result) : Result :=
  match r with
  | .proceed a => goOn a
  | .undefined => raiseUndefined pattern s
  | .nop => asNop
  | .refuse q => .refused q

/-- Step (6) of R76: a word of class A1 with a `(0)` bit set is refused, whatever it would do otherwise (R71, decision D9). -/
def refuseShouldBeZero (o : A1Operands) (otherwise : Result) : Result :=
  if o.sbz = 0b000#3 then otherwise else .refused .shouldBeZeroBitSet

/-- `if size == 64 then UNPREDICTABLE;` with the choice `cu_size64` (R134). -/
def resolveSize (choice : Option Size64Choice) (size : Nat) : Resolution Nat :=
  if size = 64 then
    match choice with
    | none => .refuse .unpredictableSize64
    | some .undef => .undefined
    | some .nop => .nop
    | some .size32 => .proceed 32
  else .proceed size

/-- The outcome of a condition check as a resolution: a check the spec gives no answer for is refused (R20, R135). -/
def resolvePassed : Option Bool → Resolution Bool
  | some passed => .proceed passed
  | none => .refuse .conditionTableAbsent

/-- `if cond != '1110' then UNPREDICTABLE;` with the choice `cu_cond` (R135), and then the condition check of the Execute
block (R103): the answer says whether the check passed. -/
def resolveCond (choice : Option CondChoice) (cond : BitVec 4) (flags : NZCV) : Resolution Bool :=
  if cond = alwaysCondition then resolvePassed (conditionPassed cond flags)
  else
    match choice with
    | none => .refuse .unpredictableCond
    | some .undef => .undefined
    | some .nop => .nop
    | some .uncond => resolvePassed (conditionPassed alwaysCondition flags)
    | some .cond => resolvePassed (conditionPassed cond flags)

end Sys2Proof.Machine
end

