-- ==== Sys2Proof/Machine/Crc32.lean ====
section
/-! DEFINITION. The instructions of the spec: the Execute block (R101, R103), the two Decode blocks (R69, R74) in the order
of their statements (R24, R136), the meaning of each encoding (R105 to R110), and of the `sz == 11` patterns (R134). -/

namespace Sys2Proof.Machine

/-- The Execute block (R101, R103). When the condition check fails the instruction only advances `pc`. Both sources are read
before the destination is written (R44). -/
def executeBlock (passed crc32c : Bool) (size : Nat) (r : RegNums) (s : State) : Result :=
  if passed then
    advancePc (writeReg s r.d (crcExecute crc32c size (readReg s r.n) (readReg s r.m)))
  else advancePc s

/-- Steps (5) to (7) of R76 for class A1: the Decode block of R69 in order, then the `(0)` bits (R71), then the Execute
block. An instruction that its Decode block makes a NOP passes the `(0)` bits too, so that no word with one set completes
(log 8). -/
def runA1 (sz : BitVec 2) (o : A1Operands) (s : State) : Result :=
  if s.params.haveCrc32 then
    match regNums o.rd o.rn o.rm with
    | none => .refused .unpredictableReg15
    | some r =>
      let asNop := refuseShouldBeZero o (advancePc s)
      resolve (resolveSize s.params.cuSize64 (sizeOfSz sz)) (encodeA1 sz o) s asNop fun size =>
        resolve (resolveCond s.params.cuCond o.cond s.nzcv) (encodeA1 sz o) s asNop fun passed =>
          refuseShouldBeZero o (executeBlock passed (crc32cOfC fixedC) size r s)
  else raiseUndefined (encodeA1 sz o) s

/-- Steps (5) to (7) of R76 for class T1: the Decode block of R74 in order, then the Execute block. Outside an IT block the
condition check passes whatever the flags (R20). -/
def runT1 (sz : BitVec 2) (o : T1Operands) (s : State) : Result :=
  if s.inItBlock then .refused .unpredictableItBlock
  else if s.params.haveCrc32 then
    match regNums o.rd o.rn o.rm with
    | none => .refused .unpredictableReg15
    | some r =>
      resolve (resolveSize s.params.cuSize64 (sizeOfSz sz)) (encodeT1 sz o) s (advancePc s) fun size =>
        resolve (resolvePassed (conditionPassed alwaysCondition s.nzcv)) (encodeT1 sz o) s (advancePc s) fun passed =>
          executeBlock passed (crc32cOfC fixedC) size r s
  else raiseUndefined (encodeT1 sz o) s

/-- CRC32B, encoding CRC32B_A1 (R105). -/
def execCrc32bA1 (o : A1Operands) (s : State) : Result :=
  runA1 0b00#2 o s

/-- CRC32H, encoding CRC32H_A1 (R106). -/
def execCrc32hA1 (o : A1Operands) (s : State) : Result :=
  runA1 0b01#2 o s

/-- CRC32W, encoding CRC32W_A1 (R107). -/
def execCrc32wA1 (o : A1Operands) (s : State) : Result :=
  runA1 0b10#2 o s

/-- CRC32B, encoding CRC32B_T1 (R108). -/
def execCrc32bT1 (o : T1Operands) (s : State) : Result :=
  runT1 0b00#2 o s

/-- CRC32H, encoding CRC32H_T1 (R109). -/
def execCrc32hT1 (o : T1Operands) (s : State) : Result :=
  runT1 0b01#2 o s

/-- CRC32W, encoding CRC32W_T1 (R110). -/
def execCrc32wT1 (o : T1Operands) (s : State) : Result :=
  runT1 0b10#2 o s

/-- An A1 word with `sz == 11` (R134): in the class, but no row of the opcode table. -/
def execSize64A1 (o : A1Operands) (s : State) : Result :=
  runA1 0b11#2 o s

/-- A T1 pattern with `sz == 11` (R134): in the class, but no row of the opcode table. -/
def execSize64T1 (o : T1Operands) (s : State) : Result :=
  runT1 0b11#2 o s

end Sys2Proof.Machine
end

