-- ==== Sys2Proof/Machine/Dispatch.lean ====
section
/-! DEFINITION. One arm per constructor of Instr. -/

namespace Sys2Proof.Machine

def exec (i : Instr) (s : State) : Host.Outcome State Fault Refusal :=
  match i with
  | .crc32bA1 o => Sys2Proof.Machine.execCrc32bA1 o s
  | .crc32hA1 o => Sys2Proof.Machine.execCrc32hA1 o s
  | .crc32wA1 o => Sys2Proof.Machine.execCrc32wA1 o s
  | .crc32bT1 o => Sys2Proof.Machine.execCrc32bT1 o s
  | .crc32hT1 o => Sys2Proof.Machine.execCrc32hT1 o s
  | .crc32wT1 o => Sys2Proof.Machine.execCrc32wT1 o s

end Sys2Proof.Machine
end

