-- ==== Sys2Proof/Machine/Sequencer.lean ====
section
/-! DEFINITION. One step of the PE: alignment (R53), fetch (R52), decode (R76), execute; and placing an instruction where
the next step fetches it. Step.lean only calls these. -/

namespace Sys2Proof.Machine

open Sys2Proof.Config (ISet)

/-- Instruction fetch: the four bytes at `pc` in address order (R52), read with no side effect (R54) and untranslated
(R56). A fetch that the text does not cover is stuck (R51), unless `pc` is just past the text after a completed
instruction: then the run is over (R153, log 13). -/
def fetch (s : State) : Except Fault (List Byte) :=
  match memRead s.mem s.pc.toNat 4 with
  | .ok bs => .ok bs
  | .error a => if atRunEnd s then .error .runOver else .error (.fetchOutsideText a)

/-- Run what the fetched bytes are. -/
def runDecoded (d : Decoded) (s : State) : Result :=
  match d with
  | .instr i => exec i s
  | .size64A1 o => execSize64A1 o s
  | .size64T1 o => execSize64T1 o s
  | .undecoded why => .refused (.undecoded why)

/-- One step: a misaligned `pc` is refused before the fetch (R33, R53, log 11). -/
def runStep (s : State) : Result :=
  if pcAligned s then
    match fetch s with
    | .error f => .fault f
    | .ok bs => runDecoded (decodeBytes s.iset bs) s
  else .refused .misalignedPc

/-- Program text placed in a launch state from an address on (R150). -/
def loadText (s : State) (base : Nat) (bytes : List Byte) : State :=
  s.setMem (writeBytes s.mem base bytes)

/-- The word `w` of `nbits` bits, numbered as the opcode table numbers it, placed at `pc` as program text, and the
instruction set of its class selected (R38, R51, R52, log 14, log 28). -/
def placeTableWord (s : State) (nbits w : Nat) : State :=
  loadText (s.setISet (tableISet nbits w)) s.pc.toNat
    (bytesOfPattern (tableISet nbits w) (tablePattern nbits w))

end Sys2Proof.Machine
end

