-- ==== Sys2Proof/Machine/Step.lean ====
section
/-! DEFINITION. The step of the machine, and the word the host places where a step fetches. -/

namespace Sys2Proof.Machine

/-- One instruction is one step (R57, R59, R156). -/
def step (s : State) : Host.Outcome State Fault Refusal :=
  runStep s

/-- The state with a word of the opcode table's numbering stored where the next step fetches. It stands for loading a
program from outside the machine (log 14). -/
def State.withFetchWord (s : State) (nbits w : Nat) : State :=
  placeTableWord s nbits w

end Sys2Proof.Machine
end

