-- ==== Sys2Proof/Safety.lean ====
section
/-! DEFINITION. What counts as a legal state, a finished run and a stuck machine, in the terms the statements use. -/

namespace Sys2Proof.Machine

/-- The state a launch must have (R33, R51, R150): the program text in its canonical form, `pc` aligned. -/
def State.Legal (s : State) : Prop :=
  Memory.wf s.mem = true ∧ pcAligned s = true

/-- The run is over: an instruction has completed and `pc`, aligned, is just past the last byte of the program text (R153). -/
def State.Final (s : State) : Prop :=
  s.completed = true ∧ pcAligned s = true ∧ textEnd s.mem = some s.pc.toNat

/-- The PE is stuck: the text does not cover all four bytes of the instruction at `pc`, and the run is not over
(R51, R153). -/
def State.Stuck (s : State) : Prop :=
  (∃ k, k < 4 ∧ readByte s.mem (s.pc.toNat + k) = none) ∧ ¬ s.Final

/-- Everything but the registers, `pc` and the record of a completed instruction is the same: flags, CPSR.DIT, IT state,
instruction set, parameters, text. -/
def State.SameControl (s t : State) : Prop :=
  t.nzcv = s.nzcv ∧ t.dit = s.dit ∧ t.inItBlock = s.inItBlock ∧ t.iset = s.iset ∧ t.params = s.params ∧ t.mem = s.mem

/-- `k` steps of the machine from any state: `Host.Core.run` of the model, as the host defines it. -/
def runSteps (k : Nat) (s : State) : Host.Outcome State Fault Refusal :=
  Host.Core.run Sys2Proof.core k s

end Sys2Proof.Machine
end

