-- ==== Sys2Proof/Certificates/Slice0/Obligations.lean ====
section
/-! DEFINITION. The statements for the provers. Each docstring names the rule of spec/ it formalises or rests on. -/

open Sys2Proof Sys2Proof.Machine
open Sys2Proof.Config (ISet Size64Choice CondChoice)

/-! ### Encoding -/

/-- Decoding an encoded well-formed instruction gives it back, through the byte order of R52, for every operand at every
value (R65, R66, R72, R75, R76). -/
def Obligations.DecodeBytesOfEncodeBytes : Prop :=
  ∀ i : Instr, i.wellFormed = true → decodeBytes i.iset (encodeBytes i) = .instr i

/-- Every word that decodes to an instruction is that instruction's encoding, so each word has one meaning (R38, R75,
R76). -/
def Obligations.EncodeOfDecodedInstr : Prop :=
  ∀ (iset : ISet) (w : Word) (i : Instr), decode iset w = .instr i →
    i.iset = iset ∧ i.wellFormed = true ∧ encode i = w

/-- R67: match and mask of the three A1 encodings, `sz == 11`, the `(0)` bits and the complete words. -/
def Obligations.A1MatchAndMask : Prop :=
  (∀ w : Word,
    ((∃ o, decode .a32 w = .instr (.crc32bA1 o)) ↔
      w &&& 0x0FF002F0#32 = 0x01000040#32 ∧ w.extractLsb' 28 4 ≠ 0b1111#4) ∧
    ((∃ o, decode .a32 w = .instr (.crc32hA1 o)) ↔
      w &&& 0x0FF002F0#32 = 0x01200040#32 ∧ w.extractLsb' 28 4 ≠ 0b1111#4) ∧
    ((∃ o, decode .a32 w = .instr (.crc32wA1 o)) ↔
      w &&& 0x0FF002F0#32 = 0x01400040#32 ∧ w.extractLsb' 28 4 ≠ 0b1111#4) ∧
    (w &&& 0x0FF002F0#32 = 0x01600040#32 →
      w &&& 0x0F9002F0#32 = 0x01000040#32 ∧ ∀ i, decode .a32 w ≠ .instr i)) ∧
  0x0FF002F0#32 &&& 0x00000D00#32 = 0#32 ∧
  ∀ rn rd rm : RegField,
    encode (.crc32bA1 ⟨0b1110#4, rn, rd, 0#3, rm⟩) =
      0xE1000040#32 ||| (rn.setWidth 32 <<< 16) ||| (rd.setWidth 32 <<< 12) ||| rm.setWidth 32 ∧
    encode (.crc32hA1 ⟨0b1110#4, rn, rd, 0#3, rm⟩) =
      0xE1200040#32 ||| (rn.setWidth 32 <<< 16) ||| (rd.setWidth 32 <<< 12) ||| rm.setWidth 32 ∧
    encode (.crc32wA1 ⟨0b1110#4, rn, rd, 0#3, rm⟩) =
      0xE1400040#32 ||| (rn.setWidth 32 <<< 16) ||| (rd.setWidth 32 <<< 12) ||| rm.setWidth 32

/-- R73: match and mask of the three T1 encodings, the halfwords, and `sz == 11`. -/
def Obligations.T1MatchAndMask : Prop :=
  (∀ w : Word,
    ((∃ o, decode .t32 w = .instr (.crc32bT1 o)) ↔ w &&& 0xFFF0F0F0#32 = 0xFAC0F080#32) ∧
    ((∃ o, decode .t32 w = .instr (.crc32hT1 o)) ↔ w &&& 0xFFF0F0F0#32 = 0xFAC0F090#32) ∧
    ((∃ o, decode .t32 w = .instr (.crc32wT1 o)) ↔ w &&& 0xFFF0F0F0#32 = 0xFAC0F0A0#32) ∧
    (w &&& 0xFFF0F0F0#32 = 0xFAC0F0B0#32 →
      w &&& 0xFFF0F0C0#32 = 0xFAC0F080#32 ∧ ∀ i, decode .t32 w ≠ .instr i)) ∧
  ∀ (sz : BitVec 2) (rn rd rm : RegField),
    encodeT1 sz ⟨rn, rd, rm⟩ =
      (0xFAC0#16 ||| rn.setWidth 16) ++
        (0xF080#16 ||| (rd.setWidth 16 <<< 8) ||| (sz.setWidth 16 <<< 4) ||| rm.setWidth 16)

/-- The word assembling gives in A32 and the two halfwords it gives in T32, and disassembling reverses it, with the three
examples (R84). A line with `.W` gives the same words, and one with `.N` is rejected: R81 takes this from general knowledge
(log 26, PRESUMED), and so does the model. -/
def Obligations.AssembledWords : Prop :=
  (∀ (iset : ISet) (l : AsmLine), l.qualifier = .narrow → assemble iset l = none) ∧
  (∀ (l : AsmLine) (sz : BitVec 2), l.qualifier ≠ .narrow →
    (l.mnemonic = .crc32b ∧ sz = 0#2) ∨ (l.mnemonic = .crc32h ∧ sz = 1#2) ∨ (l.mnemonic = .crc32w ∧ sz = 2#2) →
    (assemble .a32 l).map encode =
      some (0xE1000040#32 ||| (sz.setWidth 32 <<< 21) ||| (BitVec.ofNat 32 l.rn <<< 16) |||
        (BitVec.ofNat 32 l.rd <<< 12) ||| BitVec.ofNat 32 l.rm) ∧
    (assemble .t32 l).map encode =
      some ((0xFAC0#16 ||| BitVec.ofNat 16 l.rn) ++
        (0xF080#16 ||| (BitVec.ofNat 16 l.rd <<< 8) ||| (sz.setWidth 16 <<< 4) ||| BitVec.ofNat 16 l.rm)) ∧
    ∀ iset, (assemble iset l).bind disassemble = some { l with qualifier := .omitted }) ∧
  (assemble .a32 ⟨.crc32b, .omitted, 0, 1, 2⟩).map encode = some 0xE1010042#32 ∧
  (assemble .t32 ⟨.crc32b, .omitted, 0, 1, 2⟩).map encode = some (0xFAC1#16 ++ 0xF082#16) ∧
  (assemble .a32 ⟨.crc32h, .omitted, 3, 4, 5⟩).map encode = some 0xE1243045#32 ∧
  (assemble .t32 ⟨.crc32h, .omitted, 3, 4, 5⟩).map encode = some (0xFAC4#16 ++ 0xF395#16) ∧
  (assemble .a32 ⟨.crc32w, .omitted, 14, 13, 12⟩).map encode = some 0xE14DE04C#32 ∧
  (assemble .t32 ⟨.crc32w, .omitted, 14, 13, 12⟩).map encode = some (0xFACD#16 ++ 0xFEAC#16)

/-- Words of spec/95_test_vectors.md section 3.1, as bytes in memory order, decode to the instructions they stand for. -/
def Obligations.SpecBytesDecode : Prop :=
  decodeBytes .a32 [0x42#8, 0x00#8, 0x01#8, 0xE1#8] = .instr (.crc32bA1 ⟨14#4, 1#4, 0#4, 0#3, 2#4⟩) ∧
  decodeBytes .t32 [0xC1#8, 0xFA#8, 0x82#8, 0xF0#8] = .instr (.crc32bT1 ⟨1#4, 0#4, 2#4⟩) ∧
  decodeBytes .a32 [0x45#8, 0x30#8, 0x24#8, 0xE1#8] = .instr (.crc32hA1 ⟨14#4, 4#4, 3#4, 0#3, 5#4⟩) ∧
  decodeBytes .t32 [0xC4#8, 0xFA#8, 0x95#8, 0xF3#8] = .instr (.crc32hT1 ⟨4#4, 3#4, 5#4⟩) ∧
  decodeBytes .a32 [0x4C#8, 0xE0#8, 0x4D#8, 0xE1#8] = .instr (.crc32wA1 ⟨14#4, 13#4, 14#4, 0#3, 12#4⟩) ∧
  decodeBytes .t32 [0xCD#8, 0xFA#8, 0xAC#8, 0xFE#8] = .instr (.crc32wT1 ⟨13#4, 14#4, 12#4⟩)

/-- The patterns beside the classes are undecoded: `C == 1` (R77), A1 with `cond == 1111` (R70), and a pattern is tried
against the diagram of its own instruction set only (R38). -/
def Obligations.PatternsOutsideTheClassesAreUndecoded : Prop :=
  ∀ w : Word,
    (w.getLsbD 9 = true → decode .a32 w = .undecoded .outsideClassA1) ∧
    (w.getLsbD 20 = true → decode .t32 w = .undecoded .outsideClassT1) ∧
    (inClassA1 w = true → w.extractLsb' 28 4 = 0b1111#4 → decode .a32 w = .undecoded .condition1111) ∧
    (inClassA1 w = true → decode .t32 w = .undecoded .outsideClassT1) ∧
    (inClassT1 w = true → decode .a32 w = .undecoded .outsideClassA1)

/-- R52: the bits of the pattern in terms of the four bytes at `pc`, in both instruction sets. -/
def Obligations.FetchedPatternByteOrder : Prop :=
  ∀ b0 b1 b2 b3 : Byte,
    ((patternOfBytes .a32 b0 b1 b2 b3).extractLsb' 0 8 = b0 ∧
      (patternOfBytes .a32 b0 b1 b2 b3).extractLsb' 8 8 = b1 ∧
      (patternOfBytes .a32 b0 b1 b2 b3).extractLsb' 16 8 = b2 ∧
      (patternOfBytes .a32 b0 b1 b2 b3).extractLsb' 24 8 = b3) ∧
    ((patternOfBytes .t32 b0 b1 b2 b3).extractLsb' 16 16 = b1 ++ b0 ∧
      (patternOfBytes .t32 b0 b1 b2 b3).extractLsb' 0 16 = b3 ++ b2)

/-! ### The CRC function -/

/-- R12: `8 << UInt(sz)` is `8 * 2^UInt(sz)`: 8, 16, 32 or 64. -/
def Obligations.OperandSizes : Prop :=
  (∀ sz : BitVec 2, sizeOfSz sz = 8 * 2 ^ sz.toNat) ∧
    sizeOfSz 0b00#2 = 8 ∧ sizeOfSz 0b01#2 = 16 ∧ sizeOfSz 0b10#2 = 32 ∧ sizeOfSz 0b11#2 = 64

/-- R17: bit `N-1-i` of the reversal is bit `i`; `BitReverse` is its own inverse and distributes over EOR. -/
def Obligations.BitReverseReverses : Prop :=
  ∀ (n : Nat) (x y : BitVec n),
    (∀ i, i < n → (bitReverse x).getLsbD (n - 1 - i) = x.getLsbD i) ∧
    bitReverse (bitReverse x) = x ∧
    bitReverse (x ^^^ y) = bitReverse x ^^^ bitReverse y

/-- A bitstring read as a polynomial over the two-element field: bit `i` is the coefficient of `x^i` (R18). -/
noncomputable def Sys2Proof.bitsPoly {n : Nat} (d : BitVec n) : Polynomial (ZMod 2) :=
  ∑ i ∈ Finset.range n, if d.getLsbD i then Polynomial.X ^ i else 0

/-- R18: `Poly32Mod2` is the remainder by the degree-32 polynomial with the implied leading 1. -/
def Obligations.Poly32Mod2IsTheRemainder : Prop :=
  ∀ (n : Nat) (data : BitVec n) (poly : Word), 32 < n →
    bitsPoly (polyMod32 data poly) = bitsPoly data %ₘ (Polynomial.X ^ 32 + bitsPoly poly)

/-- R103 in polynomial terms: bit `i` of the result is the coefficient of `x^(31-i)` of
`(A(x) * x^size + V(x) * x^32) mod P(x)`, with `P` the divisor of R102. -/
def Obligations.CrcIsThePolynomialRemainder : Prop :=
  ∀ (acc v : Word) (size i : Nat), size = 8 ∨ size = 16 ∨ size = 32 → i < 32 →
    ((crc32Step acc v size).getLsbD i = true ↔
      Polynomial.coeff
        (((∑ j ∈ Finset.range 32, if acc.getLsbD j then (Polynomial.X : Polynomial (ZMod 2)) ^ (31 - j) else 0) *
              Polynomial.X ^ size +
            (∑ j ∈ Finset.range size, if v.getLsbD j then (Polynomial.X : Polynomial (ZMod 2)) ^ (size - 1 - j) else 0) *
              Polynomial.X ^ 32) %ₘ
          (Polynomial.X ^ 32 + Polynomial.X ^ 26 + Polynomial.X ^ 23 + Polynomial.X ^ 22 + Polynomial.X ^ 16 +
            Polynomial.X ^ 12 + Polynomial.X ^ 11 + Polynomial.X ^ 10 + Polynomial.X ^ 8 + Polynomial.X ^ 7 +
            Polynomial.X ^ 5 + Polynomial.X ^ 4 + Polynomial.X ^ 2 + Polynomial.X + 1))
        (31 - i) = 1)

/-- R104: the shift-and-xor form computes the value R103 writes, for both polynomials of the Execute block, with the
reflected constants the rule gives. -/
def Obligations.ShiftFormComputesCrc32Step : Prop :=
  (∀ (acc v : Word) (size : Nat), size = 8 ∨ size = 16 ∨ size = 32 →
    crc32Step acc v size = crcShift 0xEDB88320#32 acc v size ∧
    crcExecute true size acc v = crcShift 0x82F63B78#32 acc v size) ∧
  bitReverse 0x04C11DB7#32 = 0xEDB88320#32 ∧ bitReverse 0x1EDC6F41#32 = 0x82F63B78#32

/-- R112 (a) and (b): only the exclusive OR of the operands matters, and the function is linear. -/
def Obligations.Crc32StepIsLinear : Prop :=
  ∀ (a a' v v' : Word) (size : Nat), size = 8 ∨ size = 16 ∨ size = 32 →
    crc32Step a v size = crc32Step (a ^^^ (v.setWidth size).setWidth 32) 0#32 size ∧
    crc32Step (a ^^^ a') (v ^^^ v') size = crc32Step a v size ^^^ crc32Step a' v' size ∧
    crc32Step 0#32 0#32 size = 0#32

/-- R112 (c): chaining, low part first; a CRC32W is four CRC32B on bytes 0, 1, 2, 3 in that order. -/
def Obligations.Crc32StepChainsLowPartFirst : Prop :=
  ∀ a v : Word,
    crc32Step a v 16 =
      crc32Step (crc32Step a ((v.extractLsb' 0 8).setWidth 32) 8) ((v.extractLsb' 8 8).setWidth 32) 8 ∧
    crc32Step a v 32 =
      crc32Step (crc32Step a ((v.extractLsb' 0 16).setWidth 32) 16) ((v.extractLsb' 16 16).setWidth 32) 16 ∧
    crc32Step a v 32 =
      crc32Step
        (crc32Step
          (crc32Step (crc32Step a ((v.extractLsb' 0 8).setWidth 32) 8) ((v.extractLsb' 8 8).setWidth 32) 8)
          ((v.extractLsb' 16 8).setWidth 32) 8)
        ((v.extractLsb' 24 8).setWidth 32) 8

/-- R112 (d): for a fixed value and size the map of the accumulator is a bijection. -/
def Obligations.Crc32StepIsBijective : Prop :=
  ∀ (v : Word) (size : Nat), size = 8 ∨ size = 16 ∨ size = 32 →
    Function.Bijective fun a : Word => crc32Step a v size

/-- R112 (e): from `0xFFFFFFFF`, over the bytes of "123456789" one by one or as two words and a byte, and inverted at the
end, the result is the common check value. -/
def Obligations.CommonCrc32CheckValue : Prop :=
  ([0x31#32, 0x32#32, 0x33#32, 0x34#32, 0x35#32, 0x36#32, 0x37#32, 0x38#32, 0x39#32].foldl
      (fun c b => crc32Step c b 8) 0xFFFFFFFF#32) ^^^ 0xFFFFFFFF#32 = 0xCBF43926#32 ∧
  crc32Step (crc32Step (crc32Step 0xFFFFFFFF#32 0x34333231#32 32) 0x38373635#32 32) 0x39#32 8 ^^^ 0xFFFFFFFF#32 =
    0xCBF43926#32

/-- The corner cases of R105 to R107 for equal operands: plain shifts for CRC32B and CRC32H, zero for CRC32W. -/
def Obligations.EqualOperandsShift : Prop :=
  ∀ v : Word, crc32Step v v 8 = v >>> 8 ∧ crc32Step v v 16 = v >>> 16 ∧ crc32Step v v 32 = 0#32

/-! ### What each encoding does -/

/-- CRC32B_A1 (R105): with the feature present, `cond == 1110`, the `(0)` bits zero, no register 15 and `pc + 4` below
2^32, it writes `x[d]`, advances `pc` and is recorded as completed (log 13), and changes nothing else. -/
def Obligations.Crc32bA1WritesTheCrc : Prop :=
  ∀ (o : A1Operands) (s : State) (d n m : Fin 15), s.params.haveCrc32 = true → o.cond = 0b1110#4 → o.sbz = 0#3 →
    o.rd.toNat = d.val → o.rn.toNat = n.val → o.rm.toNat = m.val → s.pc.toNat + 4 < 2 ^ 32 →
    exec (.crc32bA1 o) s =
      .next { s with x := s.x.set d (crc32Step s.x[n] s.x[m] 8), pc := s.pc + 4#32, completed := true }

/-- CRC32H_A1 (R106): as R105 with size 16. -/
def Obligations.Crc32hA1WritesTheCrc : Prop :=
  ∀ (o : A1Operands) (s : State) (d n m : Fin 15), s.params.haveCrc32 = true → o.cond = 0b1110#4 → o.sbz = 0#3 →
    o.rd.toNat = d.val → o.rn.toNat = n.val → o.rm.toNat = m.val → s.pc.toNat + 4 < 2 ^ 32 →
    exec (.crc32hA1 o) s =
      .next { s with x := s.x.set d (crc32Step s.x[n] s.x[m] 16), pc := s.pc + 4#32, completed := true }

/-- CRC32W_A1 (R107): as R105 with size 32. -/
def Obligations.Crc32wA1WritesTheCrc : Prop :=
  ∀ (o : A1Operands) (s : State) (d n m : Fin 15), s.params.haveCrc32 = true → o.cond = 0b1110#4 → o.sbz = 0#3 →
    o.rd.toNat = d.val → o.rn.toNat = n.val → o.rm.toNat = m.val → s.pc.toNat + 4 < 2 ^ 32 →
    exec (.crc32wA1 o) s =
      .next { s with x := s.x.set d (crc32Step s.x[n] s.x[m] 32), pc := s.pc + 4#32, completed := true }

/-- CRC32B_T1 (R108): outside an IT block, with the feature present, no register 15 and `pc + 4` below 2^32, it writes
`x[d]`, advances `pc` and is recorded as completed (log 13), and changes nothing else. -/
def Obligations.Crc32bT1WritesTheCrc : Prop :=
  ∀ (o : T1Operands) (s : State) (d n m : Fin 15), s.inItBlock = false → s.params.haveCrc32 = true →
    o.rd.toNat = d.val → o.rn.toNat = n.val → o.rm.toNat = m.val → s.pc.toNat + 4 < 2 ^ 32 →
    exec (.crc32bT1 o) s =
      .next { s with x := s.x.set d (crc32Step s.x[n] s.x[m] 8), pc := s.pc + 4#32, completed := true }

/-- CRC32H_T1 (R109): as R108 with size 16. -/
def Obligations.Crc32hT1WritesTheCrc : Prop :=
  ∀ (o : T1Operands) (s : State) (d n m : Fin 15), s.inItBlock = false → s.params.haveCrc32 = true →
    o.rd.toNat = d.val → o.rn.toNat = n.val → o.rm.toNat = m.val → s.pc.toNat + 4 < 2 ^ 32 →
    exec (.crc32hT1 o) s =
      .next { s with x := s.x.set d (crc32Step s.x[n] s.x[m] 16), pc := s.pc + 4#32, completed := true }

/-- CRC32W_T1 (R110): as R108 with size 32. -/
def Obligations.Crc32wT1WritesTheCrc : Prop :=
  ∀ (o : T1Operands) (s : State) (d n m : Fin 15), s.inItBlock = false → s.params.haveCrc32 = true →
    o.rd.toNat = d.val → o.rn.toNat = n.val → o.rm.toNat = m.val → s.pc.toNat + 4 < 2 ^ 32 →
    exec (.crc32wT1 o) s =
      .next { s with x := s.x.set d (crc32Step s.x[n] s.x[m] 32), pc := s.pc + 4#32, completed := true }

/-- The frame of all six encodings (R44): every register but `x[d]`, the flags, CPSR.DIT, the IT state, the instruction
set, the parameters and every byte of the text are unchanged; no form stores. Beside `x[d]` and `pc` only the model's record
that an instruction has completed changes (log 13). -/
def Obligations.ExecChangesOnlyDestinationAndPc : Prop :=
  ∀ (i : Instr) (s t : State), exec i s = .next t →
    (∀ j : Fin 15, j.val ≠ i.rdField.toNat → t.x[j] = s.x[j]) ∧ t.nzcv = s.nzcv ∧ t.dit = s.dit ∧
    t.inItBlock = s.inItBlock ∧ t.iset = s.iset ∧ t.params = s.params ∧ t.completed = true ∧
    ∀ a : Nat, readByte t.mem a = readByte s.mem a

/-- The upper bits of `x[m]` do not affect the result of a defined instruction (R44, R100): two states that differ in
`x[m]` only above bit `size-1`, with `n` and `m` distinct, get the same `x[d]`. -/
def Obligations.UpperDataBitsAreIgnored : Prop :=
  ∀ (i : Instr) (s t : State) (d n m : Fin 15) (v : Word), i.isDefined = true → i.rdField.toNat = d.val →
    i.rnField.toNat = n.val → i.rmField.toNat = m.val → n ≠ m →
    v.setWidth (sizeOfSz i.szField) = (s.x[m]).setWidth (sizeOfSz i.szField) → exec i s = .next t →
    ∃ t', exec i { s with x := s.x.set m v } = .next t' ∧ t'.x[d] = t.x[d]

/-- The flags, CPSR.DIT, the selector and the text do not influence an instruction (R34, R36, R44, R154): with other values
of them it answers the same, and keeps those values. Nor does the model's record of a completed instruction (log 13). -/
def Obligations.FlagsAndDitDoNotInfluence : Prop :=
  ∀ (i : Instr) (s : State) (f : NZCV) (b c : Bool) (k : ISet) (text : Memory),
    (∀ t, exec i s = .next t →
      exec i { s with nzcv := f, dit := b, iset := k, mem := text, completed := c } =
        .next { t with nzcv := f, dit := b, iset := k, mem := text }) ∧
    (∀ r, exec i s = .fault r →
      exec i { s with nzcv := f, dit := b, iset := k, mem := text, completed := c } = .fault r) ∧
    (∀ r, exec i s = .refused r →
      exec i { s with nzcv := f, dit := b, iset := k, mem := text, completed := c } = .refused r)

/-- The A1 and T1 encodings of one mnemonic compute the same function of the same operands (R111), register 15 among them,
where the tests that only one class has let both through. -/
def Obligations.A1AndT1ComputeTheSame : Prop :=
  ∀ (rn rd rm : RegField) (s : State), s.params.haveCrc32 = true → s.inItBlock = false →
    exec (.crc32bT1 ⟨rn, rd, rm⟩) s = exec (.crc32bA1 ⟨0b1110#4, rn, rd, 0#3, rm⟩) s ∧
    exec (.crc32hT1 ⟨rn, rd, rm⟩) s = exec (.crc32hA1 ⟨0b1110#4, rn, rd, 0#3, rm⟩) s ∧
    exec (.crc32wT1 ⟨rn, rd, rm⟩) s = exec (.crc32wA1 ⟨0b1110#4, rn, rd, 0#3, rm⟩) s

/-! ### The UNDEFINED exception and the UNPREDICTABLE cases -/

/-- R130, R137: without the feature every encoding outside an IT block raises Undefined, recording the instruction's
address and pattern, whatever its fields. -/
def Obligations.UndefinedWithoutTheFeature : Prop :=
  ∀ (i : Instr) (s : State), s.params.haveCrc32 = false → (i.iset = .t32 → s.inItBlock = false) →
    exec i s = .fault (.undefined s.pc (encode i))

/-- R130: with the feature present and no UNDEF choice for a constrained case, no value of the registers and no operand
causes an exception. -/
def Obligations.NoFaultWithTheFeature : Prop :=
  ∀ (i : Instr) (s : State) (f : Fault), s.params.haveCrc32 = true → s.params.cuCond ≠ some .undef →
    exec i s ≠ .fault f

/-- R5, R130: on an implementation without the feature no step completes, whatever the text. -/
def Obligations.NothingCompletesWithoutTheFeature : Prop :=
  ∀ s t : State, s.params.haveCrc32 = false → step s ≠ .next t

/-- R6: ID_ISAR5.CRC32 indicates whether the instructions are supported, in A32 and in T32: the field is set exactly when
each defined instruction outside an IT block and below the top of the address space completes. -/
def Obligations.FeatureFieldIndicatesSupport : Prop :=
  ∀ (i : Instr) (s : State), i.isDefined = true → s.inItBlock = false → s.pc.toNat + 4 < 2 ^ 32 →
    (idIsar5Crc32 s = true ↔ ∃ t, exec i s = .next t)

/-- R132: an encoding with register 15 in any field is refused (with the feature present and, in T1, outside an IT block),
the `sz == 11` patterns of both classes among them. -/
def Obligations.Register15IsRefused : Prop :=
  ∀ s : State, s.params.haveCrc32 = true →
    (∀ i : Instr, (i.iset = .t32 → s.inItBlock = false) →
      (i.rdField = 15#4 ∨ i.rnField = 15#4 ∨ i.rmField = 15#4) → exec i s = .refused .unpredictableReg15) ∧
    (∀ o : A1Operands, (o.rd = 15#4 ∨ o.rn = 15#4 ∨ o.rm = 15#4) → execSize64A1 o s = .refused .unpredictableReg15) ∧
    (∀ o : T1Operands, s.inItBlock = false → (o.rd = 15#4 ∨ o.rn = 15#4 ∨ o.rm = 15#4) →
      execSize64T1 o s = .refused .unpredictableReg15)

/-- R133: a T1 encoding in an IT block is refused, whatever else holds; A1 has no such test: its outcome is the same in
both values of the IT state, `sz == 11` included. -/
def Obligations.ItBlockRefusesT1Only : Prop :=
  (∀ (o : T1Operands) (s : State), s.inItBlock = true →
    exec (.crc32bT1 o) s = .refused .unpredictableItBlock ∧ exec (.crc32hT1 o) s = .refused .unpredictableItBlock ∧
    exec (.crc32wT1 o) s = .refused .unpredictableItBlock ∧ execSize64T1 o s = .refused .unpredictableItBlock) ∧
  (∀ (i : Instr) (s t : State) (b : Bool), i.iset = .a32 → exec i s = .next t →
    exec i { s with inItBlock := b } = .next { t with inItBlock := b }) ∧
  (∀ (i : Instr) (s : State) (b : Bool) (r : Refusal), i.iset = .a32 → exec i s = .refused r →
    exec i { s with inItBlock := b } = .refused r) ∧
  (∀ (i : Instr) (s : State) (b : Bool) (f : Fault), i.iset = .a32 → exec i s = .fault f →
    exec i { s with inItBlock := b } = .fault f) ∧
  (∀ (o : A1Operands) (s : State) (b : Bool),
    (∀ t, execSize64A1 o s = .next t → execSize64A1 o { s with inItBlock := b } = .next { t with inItBlock := b }) ∧
    (∀ r, execSize64A1 o s = .refused r → execSize64A1 o { s with inItBlock := b } = .refused r) ∧
    ∀ f, execSize64A1 o s = .fault f → execSize64A1 o { s with inItBlock := b } = .fault f)

/-- R37: launched inside an IT block in T32, no step completes. -/
def Obligations.NothingCompletesInAnItBlock : Prop :=
  ∀ s t : State, s.iset = .t32 → s.inItBlock = true → step s ≠ .next t

/-- What a pattern with `sz == 11` does for each value of `cu_size64`, in both classes, once the tests before it have passed
(R134); a NOP completes, in A1 with the `(0)` bits zero (R71, R76), and is recorded as completed (the model's record: log
13). With SIZE32 it does what CRC32W of the same
fields does, a fault recording its own pattern. That every such pattern of a class decodes to a case of its own beside the
instructions is the model's choice (log 15, DESIGN CHOICE); no assembled line gives one. -/
def Obligations.Size64Choices : Prop :=
  (∀ (o : A1Operands) (s : State), o.rd ≠ 15#4 → o.rn ≠ 15#4 → o.rm ≠ 15#4 →
    (s.params.cuSize64 = some .undef → execSize64A1 o s = .fault (.undefined s.pc (encodeA1 0b11#2 o))) ∧
    (s.params.haveCrc32 = true →
      (s.params.cuSize64 = some .nop → o.sbz = 0#3 → s.pc.toNat + 4 < 2 ^ 32 →
        execSize64A1 o s = .next { s with pc := s.pc + 4#32, completed := true }) ∧
      (s.params.cuSize64 = some .size32 →
        (∀ t, exec (.crc32wA1 o) s = .next t → execSize64A1 o s = .next t) ∧
        (∀ r, exec (.crc32wA1 o) s = .refused r → execSize64A1 o s = .refused r) ∧
        (∀ f, exec (.crc32wA1 o) s = .fault f →
          execSize64A1 o s = .fault (.undefined s.pc (encodeA1 0b11#2 o)))) ∧
      (s.params.cuSize64 = none → execSize64A1 o s = .refused .unpredictableSize64))) ∧
  (∀ (o : T1Operands) (s : State), s.inItBlock = false → o.rd ≠ 15#4 → o.rn ≠ 15#4 → o.rm ≠ 15#4 →
    (s.params.cuSize64 = some .undef → execSize64T1 o s = .fault (.undefined s.pc (encodeT1 0b11#2 o))) ∧
    (s.params.haveCrc32 = true →
      (s.params.cuSize64 = some .nop → s.pc.toNat + 4 < 2 ^ 32 →
        execSize64T1 o s = .next { s with pc := s.pc + 4#32, completed := true }) ∧
      (s.params.cuSize64 = some .size32 → execSize64T1 o s = exec (.crc32wT1 o) s) ∧
      (s.params.cuSize64 = none → execSize64T1 o s = .refused .unpredictableSize64))) ∧
  (∀ w : Word, inClassA1 w = true → w.extractLsb' 28 4 ≠ 0b1111#4 → szA1 w = 0b11#2 →
    decode .a32 w = .size64A1 (fieldsA1 w)) ∧
  (∀ w : Word, inClassT1 w = true → szT1 w = 0b11#2 → decode .t32 w = .size64T1 (fieldsT1 w)) ∧
  ∀ (iset : ISet) (l : AsmLine) (i : Instr), assemble iset l = some i → decode iset (encode i) = .instr i

/-- What an A1 encoding does for each value of `cu_cond` when `cond` is in `0000` to `1101`, whatever the flags, once
the tests before it have passed (R135); a NOP completes with the `(0)` bits zero (R71, R76) and is recorded as completed
(the model's record: log 13), UNCOND executes as if `cond` were `1110`, and COND must be refused. A word with `cond == 1111`
is no encoding of the class, and T1 has no such case: `cu_cond` changes no outcome there, `sz == 11` included. -/
def Obligations.ConditionChoices : Prop :=
  (∀ (mk : A1Operands → Instr) (o : A1Operands) (s : State),
    mk = Instr.crc32bA1 ∨ mk = Instr.crc32hA1 ∨ mk = Instr.crc32wA1 →
    o.cond ≠ 0b1110#4 → o.cond ≠ 0b1111#4 → o.rd ≠ 15#4 → o.rn ≠ 15#4 → o.rm ≠ 15#4 →
    (s.params.cuCond = some .undef → exec (mk o) s = .fault (.undefined s.pc (encode (mk o)))) ∧
    (s.params.haveCrc32 = true →
      (s.params.cuCond = some .nop → o.sbz = 0#3 → s.pc.toNat + 4 < 2 ^ 32 →
        exec (mk o) s = .next { s with pc := s.pc + 4#32, completed := true }) ∧
      (s.params.cuCond = some .uncond → exec (mk o) s = exec (mk { o with cond := 0b1110#4 }) s) ∧
      (s.params.cuCond = some .cond → exec (mk o) s = .refused .conditionTableAbsent) ∧
      (s.params.cuCond = none → exec (mk o) s = .refused .unpredictableCond))) ∧
  (∀ (w : Word) (i : Instr), w.extractLsb' 28 4 = 0b1111#4 → decode .a32 w ≠ .instr i) ∧
  (∀ (i : Instr) (s : State) (c : Option CondChoice), i.iset = .t32 →
    (∀ t, exec i s = .next t →
      exec i { s with params := { s.params with cuCond := c } } =
        .next { t with params := { s.params with cuCond := c } }) ∧
    (∀ r, exec i s = .refused r → exec i { s with params := { s.params with cuCond := c } } = .refused r) ∧
    ∀ f, exec i s = .fault f → exec i { s with params := { s.params with cuCond := c } } = .fault f) ∧
  (∀ (o : T1Operands) (s : State) (c : Option CondChoice),
    (∀ t, execSize64T1 o s = .next t →
      execSize64T1 o { s with params := { s.params with cuCond := c } } =
        .next { t with params := { s.params with cuCond := c } }) ∧
    (∀ r, execSize64T1 o s = .refused r →
      execSize64T1 o { s with params := { s.params with cuCond := c } } = .refused r) ∧
    ∀ f, execSize64T1 o s = .fault f → execSize64T1 o { s with params := { s.params with cuCond := c } } = .fault f)

/-- R136: the first UNDEFINED or UNPREDICTABLE statement reached decides, in the order of each Decode block, whatever the
later tests would say. -/
def Obligations.FirstTestReachedDecides : Prop :=
  (∀ (sz : BitVec 2) (o : A1Operands) (s : State),
    (s.params.haveCrc32 = false → runA1 sz o s = .fault (.undefined s.pc (encodeA1 sz o))) ∧
    (s.params.haveCrc32 = true → (o.rd = 15#4 ∨ o.rn = 15#4 ∨ o.rm = 15#4) →
      runA1 sz o s = .refused .unpredictableReg15) ∧
    (s.params.haveCrc32 = true → o.rd ≠ 15#4 → o.rn ≠ 15#4 → o.rm ≠ 15#4 → sz = 0b11#2 → s.params.cuSize64 = none →
      runA1 sz o s = .refused .unpredictableSize64) ∧
    (s.params.haveCrc32 = true → o.rd ≠ 15#4 → o.rn ≠ 15#4 → o.rm ≠ 15#4 → sz ≠ 0b11#2 → o.cond ≠ 0b1110#4 →
      s.params.cuCond = none → runA1 sz o s = .refused .unpredictableCond)) ∧
  (∀ (sz : BitVec 2) (o : T1Operands) (s : State),
    (s.inItBlock = true → runT1 sz o s = .refused .unpredictableItBlock) ∧
    (s.inItBlock = false → s.params.haveCrc32 = false → runT1 sz o s = .fault (.undefined s.pc (encodeT1 sz o))) ∧
    (s.inItBlock = false → s.params.haveCrc32 = true → (o.rd = 15#4 ∨ o.rn = 15#4 ∨ o.rm = 15#4) →
      runT1 sz o s = .refused .unpredictableReg15) ∧
    (s.inItBlock = false → s.params.haveCrc32 = true → o.rd ≠ 15#4 → o.rn ≠ 15#4 → o.rm ≠ 15#4 → sz = 0b11#2 →
      s.params.cuSize64 = none → runT1 sz o s = .refused .unpredictableSize64))

/-- R71: an A1 word with one of the `(0)` bits 11, 10, 8 set never completes, whatever the parameters. Where its Decode block
raises and refuses nothing, a NOP choice included, it is refused for those bits (R76 step 6), in each size and for
`sz == 11`. -/
def Obligations.ShouldBeZeroBitsAreRefused : Prop :=
  (∀ (w : Word) (s t : State), w.getLsbD 11 = true ∨ w.getLsbD 10 = true ∨ w.getLsbD 8 = true →
    runDecoded (decode .a32 w) s ≠ .next t) ∧
  (∀ (i : Instr) (o : A1Operands) (s : State), i = .crc32bA1 o ∨ i = .crc32hA1 o ∨ i = .crc32wA1 o →
    s.params.haveCrc32 = true → o.rd ≠ 15#4 → o.rn ≠ 15#4 → o.rm ≠ 15#4 → o.sbz ≠ 0#3 →
    o.cond = 0b1110#4 ∨ s.params.cuCond = some .nop ∨ s.params.cuCond = some .uncond →
    exec i s = .refused .shouldBeZeroBitSet) ∧
  (∀ (o : A1Operands) (s : State), s.params.haveCrc32 = true → o.rd ≠ 15#4 → o.rn ≠ 15#4 → o.rm ≠ 15#4 → o.sbz ≠ 0#3 →
    (s.params.cuSize64 = some .nop → execSize64A1 o s = .refused .shouldBeZeroBitSet) ∧
    (s.params.cuSize64 = some .size32 →
      o.cond = 0b1110#4 ∨ s.params.cuCond = some .nop ∨ s.params.cuCond = some .uncond →
      execSize64A1 o s = .refused .shouldBeZeroBitSet))

/-! ### The machine -/

/-- When the bytes at an aligned `pc` decode to an instruction, the step is that instruction's meaning at that state, with
nothing around it; where they decode to a `sz == 11` pattern of either class it is that pattern's meaning (R76, R134), and an
undecoded pattern is refused with its reason (R76 steps 2 and 3, R77). -/
def Obligations.StepRunsTheDecodedInstruction : Prop :=
  ∀ (s : State) (bs : List Byte), pcAligned s = true → memRead s.mem s.pc.toNat 4 = .ok bs →
    (∀ i, decodeBytes s.iset bs = .instr i → step s = exec i s) ∧
    (∀ o, decodeBytes s.iset bs = .size64A1 o → step s = execSize64A1 o s) ∧
    (∀ o, decodeBytes s.iset bs = .size64T1 o → step s = execSize64T1 o s) ∧
    (∀ why, decodeBytes s.iset bs = .undecoded why → step s = .refused (.undecoded why))

/-- A well-formed instruction placed at an aligned `pc` is the one the next step runs, and placing it changes nothing but
the selector and the four bytes at `pc` (R38, R52). How a word is placed is the model's choice: logs 14 and 28. -/
def Obligations.PlacedInstructionRunsNext : Prop :=
  ∀ (i : Instr) (s : State), i.wellFormed = true → s.pc.toNat % pcAlignment i.iset = 0 →
    s.pc.toNat + 4 ≤ 2 ^ 32 →
    step (s.withFetchWord 32 (encode i).toNat) = exec i (s.withFetchWord 32 (encode i).toNat) ∧
    (s.withFetchWord 32 (encode i).toNat).iset = i.iset ∧
    (s.withFetchWord 32 (encode i).toNat).x = s.x ∧ (s.withFetchWord 32 (encode i).toNat).pc = s.pc ∧
    (s.withFetchWord 32 (encode i).toNat).nzcv = s.nzcv ∧ (s.withFetchWord 32 (encode i).toNat).dit = s.dit ∧
    (s.withFetchWord 32 (encode i).toNat).inItBlock = s.inItBlock ∧
    (s.withFetchWord 32 (encode i).toNat).params = s.params ∧
    (s.withFetchWord 32 (encode i).toNat).completed = s.completed ∧
    ∀ a, (a < s.pc.toNat ∨ s.pc.toNat + 4 ≤ a) →
      readByte (s.withFetchWord 32 (encode i).toNat).mem a = readByte s.mem a

/-- A step keeps a legal state legal: the text stays canonical and `pc` stays aligned for the instruction set (R33, R51,
R53, R54). -/
def Obligations.StepKeepsTheStateLegal : Prop :=
  ∀ s t : State, s.Legal → step s = .next t → t.Legal

/-- The state after reset is legal; its values are the model's choice (logs 2, 3, 14). -/
def Obligations.ResetIsLegal : Prop :=
  State.reset.Legal

/-- What a step can change at all (R33, R44): one register and `pc`, which advances by four without wrapping. It records that
an instruction has completed (log 13). -/
def Obligations.StepChangesOneRegisterAndPc : Prop :=
  ∀ s t : State, step s = .next t →
    s.SameControl t ∧ t.pc.toNat = s.pc.toNat + 4 ∧ t.completed = true ∧ ∃ d : Fin 15, ∀ j : Fin 15, j ≠ d → t.x[j] = s.x[j]

/-- Every run is a straight line (R33, R54, R57, R116): after `k` steps `pc` has advanced by `4 * k` and the flags, CPSR.DIT,
the IT state, the instruction set, the parameters and the text are those of the start. -/
def Obligations.RunsAreStraightLines : Prop :=
  ∀ (k : Nat) (s t : State), runSteps k s = .next t → t.pc.toNat = s.pc.toNat + 4 * k ∧ s.SameControl t

/-- R53 and decision D11: a misaligned `pc` is refused before the fetch; and a defined instruction whose `pc + 4` reaches 2^32
is refused with the feature present and outside an IT block (the model reads "wrap" as decision D11 does: log 9). -/
def Obligations.MisalignedAndWrappingPcAreRefused : Prop :=
  (∀ s : State, pcAligned s = false → step s = .refused .misalignedPc) ∧
  ∀ (i : Instr) (s : State), i.isDefined = true → s.params.haveCrc32 = true → s.inItBlock = false →
    2 ^ 32 ≤ s.pc.toNat + 4 → exec i s = .refused .pcWrap

/-- R51: a fetch that the text does not cover is stuck, a launch just past the text included (R153): the step stops at an
address of the instruction that the text does not hold. -/
def Obligations.FetchOutsideTheTextIsStuck : Prop :=
  (∀ s : State, pcAligned s = true → s.Stuck →
    ∃ a, s.pc.toNat ≤ a ∧ a < s.pc.toNat + 4 ∧ readByte s.mem a = none ∧ step s = .fault (.fetchOutsideText a)) ∧
  ∀ s : State, pcAligned s = true → s.completed = false → textEnd s.mem = some s.pc.toNat →
    s.Stuck ∧ step s = .fault (.fetchOutsideText s.pc.toNat)

/-- R153: the run is over in the final states and in no other, no other fault or refusal being final; and the state after a
completed instruction is final exactly when its `pc` is just past the last byte of the text. That a step from a final state
stops with a fault of this name, and the record of a completed instruction, are the model's: log 13. -/
def Obligations.RunIsOverAtTheEndOfTheText : Prop :=
  (∀ s : State, s.Final ↔ step s = .fault .runOver) ∧
  ∀ s t : State, step s = .next t → (t.Final ↔ textEnd t.mem = some t.pc.toNat)

/-- R153: the end of a text of `k` words placed from the launch `pc` on is `base + 4 * k`, the run is over after `k` completed
steps, and not before. -/
def Obligations.ProgramEndsAfterItsLastInstruction : Prop :=
  ∀ (k : Nat) (s t : State) (text : List Byte), 0 < k → text.length = 4 * k →
    s.mem = writeBytes [] s.pc.toNat text → runSteps k s = .next t →
    textEnd s.mem = some (s.pc.toNat + 4 * k) ∧ t.Final ∧
    ∀ (j : Nat) (u : State), j < k → runSteps j s = .next u → ¬ u.Final

/-- The model's own values at reset, none of them the spec's (R45): logs 1 to 4, 13 and 14. -/
def Obligations.ResetValuesTheModelChose : Prop :=
  (∀ i : Fin 15, State.reset.x[i] = 0#32) ∧ State.reset.pc = 0#32 ∧
  State.reset.nzcv = ⟨false, false, false, false⟩ ∧ State.reset.dit = false ∧ State.reset.inItBlock = false ∧
  State.reset.iset = .a32 ∧ State.reset.params = ⟨true, some .size32, some .uncond⟩ ∧
  State.reset.completed = false ∧ ∀ a, readByte State.reset.mem a = none
end

