-- ==== Sys2Proof/Laws/Encode.lean ====
section
/-! SUPPORT. The bits of an encoded word, one lemma for each format, so that no proof takes the concatenation apart. -/

namespace Sys2Proof

/-- The bits of an A1 word, from bit 0 up (R66). -/
theorem getLsbD_encodeA1 (sz : BitVec 2) (o : A1Operands) {k : Nat} (h : k < 32) :
    (encodeA1 sz o).getLsbD k =
      if k < 4 then o.rm.getLsbD k
      else if k < 8 then (0b0100#4).getLsbD (k - 4)
      else if k < 9 then o.sbz.getLsbD (k - 8)
      else if k < 10 then false
      else if k < 12 then o.sbz.getLsbD (k - 9)
      else if k < 16 then o.rd.getLsbD (k - 12)
      else if k < 20 then o.rn.getLsbD (k - 16)
      else if k < 21 then false
      else if k < 23 then sz.getLsbD (k - 21)
      else if k < 28 then (0b00010#5).getLsbD (k - 23)
      else o.cond.getLsbD (k - 28) := by
  unfold encodeA1
  change BitVec.getLsbD (w := 4 + 5 + 2 + 1 + 4 + 4 + 2 + 1 + 1 + 4 + 4) _ k = _
  simp only [BitVec.getLsbD_append, BitVec.getLsbD_extractLsb']
  interval_cases k <;> simp

/-- The bits of a T1 pattern, from bit 0 up (R72). -/
theorem getLsbD_encodeT1 (sz : BitVec 2) (o : T1Operands) {k : Nat} (h : k < 32) :
    (encodeT1 sz o).getLsbD k =
      if k < 4 then o.rm.getLsbD k
      else if k < 6 then sz.getLsbD (k - 4)
      else if k < 8 then (0b10#2).getLsbD (k - 6)
      else if k < 12 then o.rd.getLsbD (k - 8)
      else if k < 16 then (0b1111#4).getLsbD (k - 12)
      else if k < 20 then o.rn.getLsbD (k - 16)
      else if k < 21 then false
      else if k < 23 then (0b10#2).getLsbD (k - 21)
      else (0b111110101#9).getLsbD (k - 23) := by
  unfold encodeT1
  change BitVec.getLsbD (w := 9 + 2 + 1 + 4 + 4 + 4 + 2 + 2 + 4) _ k = _
  simp only [BitVec.getLsbD_append]
  interval_cases k <;> simp

end Sys2Proof
end

