-- ==== Sys2Proof/Laws/State.lean ====
section
/-! SUPPORT. One lemma for each field of State under each update of State, so that no proof unfolds a record update. -/

namespace Sys2Proof.Machine

open Sys2Proof.Config (ISet)

@[simp] theorem State.setX_x (s : State) (i : Fin 15) (v : Word) : (s.setX i v).x = s.x.set i v := rfl
@[simp] theorem State.setX_pc (s : State) (i : Fin 15) (v : Word) : (s.setX i v).pc = s.pc := rfl
@[simp] theorem State.setX_nzcv (s : State) (i : Fin 15) (v : Word) : (s.setX i v).nzcv = s.nzcv := rfl
@[simp] theorem State.setX_dit (s : State) (i : Fin 15) (v : Word) : (s.setX i v).dit = s.dit := rfl
@[simp] theorem State.setX_inItBlock (s : State) (i : Fin 15) (v : Word) : (s.setX i v).inItBlock = s.inItBlock := rfl
@[simp] theorem State.setX_iset (s : State) (i : Fin 15) (v : Word) : (s.setX i v).iset = s.iset := rfl
@[simp] theorem State.setX_params (s : State) (i : Fin 15) (v : Word) : (s.setX i v).params = s.params := rfl
@[simp] theorem State.setX_mem (s : State) (i : Fin 15) (v : Word) : (s.setX i v).mem = s.mem := rfl
@[simp] theorem State.setX_completed (s : State) (i : Fin 15) (v : Word) : (s.setX i v).completed = s.completed := rfl

@[simp] theorem State.setPc_x (s : State) (a : Word) : (s.setPc a).x = s.x := rfl
@[simp] theorem State.setPc_pc (s : State) (a : Word) : (s.setPc a).pc = a := rfl
@[simp] theorem State.setPc_nzcv (s : State) (a : Word) : (s.setPc a).nzcv = s.nzcv := rfl
@[simp] theorem State.setPc_dit (s : State) (a : Word) : (s.setPc a).dit = s.dit := rfl
@[simp] theorem State.setPc_inItBlock (s : State) (a : Word) : (s.setPc a).inItBlock = s.inItBlock := rfl
@[simp] theorem State.setPc_iset (s : State) (a : Word) : (s.setPc a).iset = s.iset := rfl
@[simp] theorem State.setPc_params (s : State) (a : Word) : (s.setPc a).params = s.params := rfl
@[simp] theorem State.setPc_mem (s : State) (a : Word) : (s.setPc a).mem = s.mem := rfl
@[simp] theorem State.setPc_completed (s : State) (a : Word) : (s.setPc a).completed = s.completed := rfl

@[simp] theorem State.setMem_x (s : State) (m : Memory) : (s.setMem m).x = s.x := rfl
@[simp] theorem State.setMem_pc (s : State) (m : Memory) : (s.setMem m).pc = s.pc := rfl
@[simp] theorem State.setMem_nzcv (s : State) (m : Memory) : (s.setMem m).nzcv = s.nzcv := rfl
@[simp] theorem State.setMem_dit (s : State) (m : Memory) : (s.setMem m).dit = s.dit := rfl
@[simp] theorem State.setMem_inItBlock (s : State) (m : Memory) : (s.setMem m).inItBlock = s.inItBlock := rfl
@[simp] theorem State.setMem_iset (s : State) (m : Memory) : (s.setMem m).iset = s.iset := rfl
@[simp] theorem State.setMem_params (s : State) (m : Memory) : (s.setMem m).params = s.params := rfl
@[simp] theorem State.setMem_mem (s : State) (m : Memory) : (s.setMem m).mem = m := rfl
@[simp] theorem State.setMem_completed (s : State) (m : Memory) : (s.setMem m).completed = s.completed := rfl

@[simp] theorem State.setISet_x (s : State) (i : ISet) : (s.setISet i).x = s.x := rfl
@[simp] theorem State.setISet_pc (s : State) (i : ISet) : (s.setISet i).pc = s.pc := rfl
@[simp] theorem State.setISet_nzcv (s : State) (i : ISet) : (s.setISet i).nzcv = s.nzcv := rfl
@[simp] theorem State.setISet_dit (s : State) (i : ISet) : (s.setISet i).dit = s.dit := rfl
@[simp] theorem State.setISet_inItBlock (s : State) (i : ISet) : (s.setISet i).inItBlock = s.inItBlock := rfl
@[simp] theorem State.setISet_iset (s : State) (i : ISet) : (s.setISet i).iset = i := rfl
@[simp] theorem State.setISet_params (s : State) (i : ISet) : (s.setISet i).params = s.params := rfl
@[simp] theorem State.setISet_mem (s : State) (i : ISet) : (s.setISet i).mem = s.mem := rfl
@[simp] theorem State.setISet_completed (s : State) (i : ISet) : (s.setISet i).completed = s.completed := rfl

@[simp] theorem State.setCompleted_x (s : State) (b : Bool) : (s.setCompleted b).x = s.x := rfl
@[simp] theorem State.setCompleted_pc (s : State) (b : Bool) : (s.setCompleted b).pc = s.pc := rfl
@[simp] theorem State.setCompleted_nzcv (s : State) (b : Bool) : (s.setCompleted b).nzcv = s.nzcv := rfl
@[simp] theorem State.setCompleted_dit (s : State) (b : Bool) : (s.setCompleted b).dit = s.dit := rfl
@[simp] theorem State.setCompleted_inItBlock (s : State) (b : Bool) : (s.setCompleted b).inItBlock = s.inItBlock := rfl
@[simp] theorem State.setCompleted_iset (s : State) (b : Bool) : (s.setCompleted b).iset = s.iset := rfl
@[simp] theorem State.setCompleted_params (s : State) (b : Bool) : (s.setCompleted b).params = s.params := rfl
@[simp] theorem State.setCompleted_mem (s : State) (b : Bool) : (s.setCompleted b).mem = s.mem := rfl
@[simp] theorem State.setCompleted_completed (s : State) (b : Bool) : (s.setCompleted b).completed = b := rfl

end Sys2Proof.Machine
end

