-- ==== Sys2Proof/Laws/Ops.lean ====
section
/-! SUPPORT. What each shared operation can do, said once: registers, program text and its canonical form, sequencing, the
operands of the Decode blocks and the constrained cases. -/

namespace Sys2Proof.Machine

open Sys2Proof.Config (Size64Choice CondChoice)

/-! ### Registers -/

@[simp] theorem readReg_writeReg_same (s : State) (i : Fin 15) (v : Word) : readReg (writeReg s i v) i = v := by
  simp [readReg, writeReg]

theorem readReg_writeReg_other (s : State) {i j : Fin 15} (v : Word) (h : j ≠ i) :
    readReg (writeReg s i v) j = readReg s j := by
  have hij : (i : Nat) ≠ j := fun e => h (Fin.ext e.symm)
  simp [readReg, writeReg, hij]

@[simp] theorem readReg_setPc (s : State) (a : Word) (i : Fin 15) : readReg (s.setPc a) i = readReg s i := rfl
@[simp] theorem readReg_setCompleted (s : State) (b : Bool) (i : Fin 15) :
    readReg (s.setCompleted b) i = readReg s i := rfl
@[simp] theorem readReg_setMem (s : State) (m : Memory) (i : Fin 15) : readReg (s.setMem m) i = readReg s i := rfl
@[simp] theorem writeReg_pc (s : State) (i : Fin 15) (v : Word) : (writeReg s i v).pc = s.pc := rfl
@[simp] theorem writeReg_nzcv (s : State) (i : Fin 15) (v : Word) : (writeReg s i v).nzcv = s.nzcv := rfl
@[simp] theorem writeReg_dit (s : State) (i : Fin 15) (v : Word) : (writeReg s i v).dit = s.dit := rfl
@[simp] theorem writeReg_inItBlock (s : State) (i : Fin 15) (v : Word) :
    (writeReg s i v).inItBlock = s.inItBlock := rfl
@[simp] theorem writeReg_iset (s : State) (i : Fin 15) (v : Word) : (writeReg s i v).iset = s.iset := rfl
@[simp] theorem writeReg_params (s : State) (i : Fin 15) (v : Word) : (writeReg s i v).params = s.params := rfl
@[simp] theorem writeReg_mem (s : State) (i : Fin 15) (v : Word) : (writeReg s i v).mem = s.mem := rfl
@[simp] theorem writeReg_completed (s : State) (i : Fin 15) (v : Word) :
    (writeReg s i v).completed = s.completed := rfl

/-! ### Program text -/

theorem readByte_eq {m : Memory} {a : Nat} (h : a < addressLimit) : readByte m a = lookupByte m a := by
  simp [readByte, h]

theorem readByte_outside {m : Memory} {a : Nat} (h : addressLimit ≤ a) : readByte m a = none := by
  simp [readByte, Nat.not_lt.2 h]

theorem lookupByte_below {m : Memory} : ∀ {lo a : Nat}, wfFrom lo m = true → a < lo → lookupByte m a = none := by
  induction m with
  | nil => intros; rfl
  | cons c rest ih =>
    obtain ⟨k, v⟩ := c
    intro lo a h ha
    simp only [wfFrom, Bool.and_eq_true, decide_eq_true_eq] at h
    simp only [lookupByte]
    rw [if_neg (by omega), ih h.2 (by omega)]

theorem lookupByte_insertByte_same (m : Memory) (a : Nat) (v : Byte) : lookupByte (insertByte m a v) a = some v := by
  induction m with
  | nil => simp [insertByte, lookupByte]
  | cons c rest ih =>
    obtain ⟨k, w⟩ := c
    simp only [insertByte]
    split
    · simp [lookupByte]
    · split
      · simp [lookupByte]
      · rename_i h
        simp [lookupByte, h, ih]

theorem lookupByte_insertByte_other (m : Memory) {a b : Nat} (v : Byte) (h : b ≠ a) :
    lookupByte (insertByte m a v) b = lookupByte m b := by
  induction m with
  | nil => simp [insertByte, lookupByte, h]
  | cons c rest ih =>
    obtain ⟨k, w⟩ := c
    simp only [insertByte]
    split
    · simp [lookupByte, h]
    · split
      · rename_i e
        subst e
        simp [lookupByte, h]
      · simp [lookupByte, ih]

theorem readByte_writeByte_same (m : Memory) {a : Nat} (v : Byte) (h : a < addressLimit) :
    readByte (writeByte m a v) a = some v := by
  simp [readByte, writeByte, h, lookupByte_insertByte_same]

theorem readByte_writeByte_other (m : Memory) {a b : Nat} (v : Byte) (h : b ≠ a) :
    readByte (writeByte m a v) b = readByte m b := by
  by_cases hb : b < addressLimit <;> by_cases ha : a < addressLimit <;>
    simp [readByte, writeByte, ha, hb, lookupByte_insertByte_other m v h]

theorem readByte_writeBytes_below (bs : List Byte) :
    ∀ (m : Memory) {a b : Nat}, b < a → readByte (writeBytes m a bs) b = readByte m b := by
  induction bs with
  | nil => intros; rfl
  | cons x xs ih =>
    intro m a b h
    rw [writeBytes, ih _ (by omega), readByte_writeByte_other _ _ (by omega)]

theorem readByte_writeBytes_above (bs : List Byte) :
    ∀ (m : Memory) {a b : Nat}, a + bs.length ≤ b → readByte (writeBytes m a bs) b = readByte m b := by
  induction bs with
  | nil => intros; rfl
  | cons x xs ih =>
    intro m a b h
    simp only [List.length_cons] at h
    rw [writeBytes, ih _ (by omega), readByte_writeByte_other _ _ (by omega)]

theorem memRead_writeBytes_same (bs : List Byte) :
    ∀ (m : Memory) {a : Nat}, a + bs.length ≤ addressLimit → memRead (writeBytes m a bs) a bs.length = .ok bs := by
  induction bs with
  | nil => intros; rfl
  | cons x xs ih =>
    intro m a h
    simp only [List.length_cons] at h ⊢
    have hb : readByte (writeBytes (writeByte m a x) (a + 1) xs) a = some x := by
      rw [readByte_writeBytes_below _ _ (by omega), readByte_writeByte_same _ _ (by omega)]
    simp only [writeBytes, memRead, hb, ih _ (show a + 1 + xs.length ≤ addressLimit by omega)]

theorem insertByte_wfFrom {m : Memory} (v : Byte) :
    ∀ {lo a : Nat}, wfFrom lo m = true → lo ≤ a → a < addressLimit → wfFrom lo (insertByte m a v) = true := by
  induction m with
  | nil =>
    intro lo a _ h1 h2
    simp [insertByte, wfFrom, h1, h2, unlistedByte]
  | cons c rest ih =>
    obtain ⟨k, w⟩ := c
    intro lo a h h1 h2
    simp only [wfFrom, Bool.and_eq_true, decide_eq_true_eq] at h
    obtain ⟨⟨⟨hk, hl⟩, hu⟩, hr⟩ := h
    simp only [insertByte]
    split
    · rename_i hlt
      simp [wfFrom, h1, h2, hl, hr, unlistedByte, Nat.succ_le_of_lt hlt]
    · split
      · rename_i e
        subst e
        simp [wfFrom, hk, hl, hr, unlistedByte]
      · rename_i hn hne
        simp [wfFrom, hk, hl, unlistedByte, ih hr (show k + 1 ≤ a by omega) h2]

/-- Placing a byte of text keeps the canonical form. -/
theorem writeByte_wf {m : Memory} (a : Nat) (v : Byte) (h : Memory.wf m = true) : Memory.wf (writeByte m a v) = true := by
  unfold writeByte
  split
  · exact insertByte_wfFrom v h (Nat.zero_le a) ‹_›
  · exact h

/-- Placing bytes of text keeps the canonical form. -/
theorem writeBytes_wf (bs : List Byte) :
    ∀ {m : Memory} (a : Nat), Memory.wf m = true → Memory.wf (writeBytes m a bs) = true := by
  induction bs with
  | nil => intro m a h; exact h
  | cons x xs ih => intro m a h; exact ih (a + 1) (writeByte_wf a x h)

theorem reset_mem_wf : Memory.wf State.reset.mem = true := by decide

/-- A read answers exactly when the text covers every byte of it, and then those bytes in order. -/
theorem memRead_ok {m : Memory} :
    ∀ {n a : Nat} {bs : List Byte}, memRead m a n = .ok bs →
      bs.length = n ∧ ∀ k, (h : k < bs.length) → readByte m (a + k) = some bs[k] := by
  intro n
  induction n with
  | zero => intro a bs h; simp only [memRead, Except.ok.injEq] at h; subst h; simp
  | succ n ih =>
    intro a bs h
    simp only [memRead] at h
    split at h
    · cases h
    · rename_i b hb
      split at h
      · rename_i tl htl
        cases h
        obtain ⟨hl, hr⟩ := ih htl
        refine ⟨by simp [hl], fun k hk => ?_⟩
        cases k with
        | zero => simpa using hb
        | succ k =>
          have := hr k (by simpa using hk)
          simpa [Nat.add_assoc, Nat.add_comm 1 k] using this
      · cases h

/-- A read that fails names an address of it that the text does not cover. -/
theorem memRead_error {m : Memory} :
    ∀ {n a e : Nat}, memRead m a n = .error e → a ≤ e ∧ e < a + n ∧ readByte m e = none := by
  intro n
  induction n with
  | zero => intro a e h; cases h
  | succ n ih =>
    intro a e h
    simp only [memRead] at h
    split at h
    · cases h
      exact ⟨Nat.le_refl _, by omega, ‹_›⟩
    · split at h
      · cases h
      · rename_i e' he
        cases h
        obtain ⟨h1, h2, h3⟩ := ih he
        exact ⟨by omega, by omega, h3⟩

/-- No byte is listed at the text's end or above it. -/
theorem lookupByte_textEnd {m : Memory} : ∀ {e a : Nat}, textEnd m = some e → e ≤ a → lookupByte m a = none := by
  induction m with
  | nil => intros; rfl
  | cons c rest ih =>
    obtain ⟨k, v⟩ := c
    intro e a h ha
    simp only [textEnd] at h
    split at h
    · rename_i hr
      cases h
      cases rest with
      | nil => simp [lookupByte, unlistedByte, show a ≠ k by omega]
      | cons c' rest' =>
        obtain ⟨k', v'⟩ := c'
        simp only [textEnd] at hr
        split at hr <;> cases hr
    · rename_i e' hr
      cases h
      simp only [lookupByte, if_neg (show a ≠ k by omega)]
      exact ih hr (by omega)

/-- The text holds no byte just past its end. -/
theorem readByte_textEnd {m : Memory} {e : Nat} (h : textEnd m = some e) : readByte m e = none := by
  unfold readByte
  split
  · exact lookupByte_textEnd h (Nat.le_refl e)
  · rfl

/-- Listing a byte moves the text's end past it, or leaves it. -/
theorem textEnd_insertByte (m : Memory) (a : Nat) (v : Byte) :
    textEnd (insertByte m a v) = some (max (a + 1) ((textEnd m).getD 0)) := by
  induction m with
  | nil => simp [insertByte, textEnd]
  | cons c rest ih =>
    obtain ⟨k, w⟩ := c
    simp only [insertByte]
    split
    · cases h : textEnd rest <;> simp [textEnd, h]
    · split
      · rename_i e
        subst e
        cases h : textEnd rest with
        | none => simp [textEnd, h]
        | some e => simp only [textEnd, h, Option.getD_some, Option.some.injEq]; omega
      · cases h : textEnd rest <;> simp [textEnd, ih, h] <;> omega

/-- The end of a text placed from an address on is just past the last byte placed, unless the text already went further. -/
theorem textEnd_writeBytes (bs : List Byte) :
    ∀ (m : Memory) {a : Nat}, bs ≠ [] → a + bs.length ≤ addressLimit →
      textEnd (writeBytes m a bs) = some (max (a + bs.length) ((textEnd m).getD 0)) := by
  induction bs with
  | nil => intro m a h; exact absurd rfl h
  | cons x xs ih =>
    intro m a _ hl
    simp only [List.length_cons] at hl ⊢
    have hw : writeByte m a x = insertByte m a x := by rw [writeByte, if_pos (by omega)]
    rw [writeBytes, hw]
    cases xs with
    | nil => simp [writeBytes, textEnd_insertByte]
    | cons y ys =>
      rw [ih _ (by simp) (by omega), textEnd_insertByte]
      simp only [List.length_cons, Option.getD_some, Option.some.injEq]
      omega

/-! ### Sequencing and the UNDEFINED exception -/

@[simp] theorem completeAt_x (s : State) : (completeAt s).x = s.x := rfl
@[simp] theorem completeAt_pc (s : State) : (completeAt s).pc = s.pc + 4#32 := rfl
@[simp] theorem completeAt_nzcv (s : State) : (completeAt s).nzcv = s.nzcv := rfl
@[simp] theorem completeAt_dit (s : State) : (completeAt s).dit = s.dit := rfl
@[simp] theorem completeAt_inItBlock (s : State) : (completeAt s).inItBlock = s.inItBlock := rfl
@[simp] theorem completeAt_iset (s : State) : (completeAt s).iset = s.iset := rfl
@[simp] theorem completeAt_params (s : State) : (completeAt s).params = s.params := rfl
@[simp] theorem completeAt_mem (s : State) : (completeAt s).mem = s.mem := rfl
@[simp] theorem completeAt_completed (s : State) : (completeAt s).completed = true := rfl
@[simp] theorem readReg_completeAt (s : State) (i : Fin 15) : readReg (completeAt s) i = readReg s i := rfl

theorem atRunEnd_iff {s : State} :
    atRunEnd s = true ↔ s.completed = true ∧ textEnd s.mem = some s.pc.toNat := by
  simp [atRunEnd]

theorem advancePc_eq {s : State} (h : s.pc.toNat + 4 < addressLimit) : advancePc s = .next (completeAt s) := by
  simp [advancePc, h]

/-- An advance answers a next state only below the top of the address space, and that state is the completed one. -/
theorem advancePc_next {s t : State} (h : advancePc s = .next t) :
    s.pc.toNat + 4 < addressLimit ∧ t = completeAt s := by
  unfold advancePc at h
  split at h
  · cases h; exact ⟨‹_›, rfl⟩
  · cases h

theorem advancePc_no_fault (s : State) (f : Fault) : advancePc s ≠ .fault f := by
  unfold advancePc; split <;> simp

theorem raiseUndefined_eq (p : Word) (s : State) : raiseUndefined p s = .fault (.undefined s.pc p) := rfl

theorem add_four_toNat {a : Word} (h : a.toNat + 4 < addressLimit) : (a + 4#32).toNat = a.toNat + 4 := by
  unfold addressLimit at h
  rw [BitVec.toNat_add, BitVec.toNat_ofNat]
  omega

/-! ### The operands of the Decode blocks -/

theorem regNum_of_lt {f : RegField} (h : f.toNat < 15) : regNum f = some ⟨f.toNat, h⟩ := by
  simp [regNum, h]

theorem regNum_fifteen : regNum 15#4 = none := by decide

theorem regNum_none {f : RegField} : regNum f = none ↔ f = 15#4 := by
  constructor
  · intro h
    have hf := f.isLt
    unfold regNum at h
    split at h
    · cases h
    · exact BitVec.eq_of_toNat_eq (by simp; omega)
  · rintro rfl; exact regNum_fifteen

theorem regNum_some {f : RegField} {i : Fin 15} : regNum f = some i ↔ f.toNat = i.val := by
  constructor
  · intro h
    unfold regNum at h
    split at h
    · cases h; rfl
    · cases h
  · intro h
    rw [regNum_of_lt (by omega)]
    exact congrArg some (Fin.ext h)

/-- The three numbers exist exactly when no field is 15, and then they are the fields' values. -/
theorem regNums_some {rd rn rm : RegField} {r : RegNums} :
    regNums rd rn rm = some r ↔ rd.toNat = r.d.val ∧ rn.toNat = r.n.val ∧ rm.toNat = r.m.val := by
  rw [← regNum_some, ← regNum_some, ← regNum_some]
  unfold regNums
  constructor
  · intro h
    split at h
    · cases h; exact ⟨‹_›, ‹_›, ‹_›⟩
    · cases h
  · rintro ⟨hd, hn, hm⟩
    simp [hd, hn, hm]

theorem regNums_none {rd rn rm : RegField} :
    regNums rd rn rm = none ↔ rd = 15#4 ∨ rn = 15#4 ∨ rm = 15#4 := by
  rw [← regNum_none, ← regNum_none, ← regNum_none]
  unfold regNums
  cases regNum rd <;> cases regNum rn <;> cases regNum rm <;> simp

@[simp] theorem sizeOfSz_byte : sizeOfSz 0b00#2 = 8 := rfl
@[simp] theorem sizeOfSz_half : sizeOfSz 0b01#2 = 16 := rfl
@[simp] theorem sizeOfSz_word : sizeOfSz 0b10#2 = 32 := rfl
@[simp] theorem sizeOfSz_reserved : sizeOfSz 0b11#2 = 64 := rfl
@[simp] theorem crc32cOfC_fixedC : crc32cOfC fixedC = false := rfl

/-! ### The constrained cases -/

/-- Carrying out a resolution answers a next state in two ways only. -/
theorem resolve_next {α : Type} {r : Resolution α} {p : Word} {s t : State} {n : Result} {k : α → Result}
    (h : resolve r p s n k = .next t) : (∃ a, r = .proceed a ∧ k a = .next t) ∨ (r = .nop ∧ n = .next t) := by
  cases r with
  | proceed a => exact .inl ⟨a, rfl, h⟩
  | undefined => cases h
  | nop => exact .inr ⟨rfl, h⟩
  | refuse q => cases h

/-- Carrying out a resolution faults in three ways only. -/
theorem resolve_fault {α : Type} {r : Resolution α} {p : Word} {s : State} {n : Result} {k : α → Result} {f : Fault}
    (h : resolve r p s n k = .fault f) :
    (∃ a, r = .proceed a ∧ k a = .fault f) ∨ (r = .undefined ∧ f = .undefined s.pc p) ∨ (r = .nop ∧ n = .fault f) := by
  cases r with
  | proceed a => exact .inl ⟨a, rfl, h⟩
  | undefined => cases h; exact .inr (.inl ⟨rfl, rfl⟩)
  | nop => exact .inr (.inr ⟨rfl, h⟩)
  | refuse q => cases h

@[simp] theorem resolve_proceed {α : Type} (a : α) (p : Word) (s : State) (n : Result) (k : α → Result) :
    resolve (.proceed a) p s n k = k a := rfl
@[simp] theorem resolve_undefined {α : Type} (p : Word) (s : State) (n : Result) (k : α → Result) :
    resolve .undefined p s n k = raiseUndefined p s := rfl
@[simp] theorem resolve_nop {α : Type} (p : Word) (s : State) (n : Result) (k : α → Result) :
    resolve .nop p s n k = n := rfl
@[simp] theorem resolve_refuse {α : Type} (q : Refusal) (p : Word) (s : State) (n : Result) (k : α → Result) :
    resolve (.refuse q) p s n k = .refused q := rfl

@[simp] theorem refuseShouldBeZero_zero {o : A1Operands} (k : Result) (h : o.sbz = 0#3) :
    refuseShouldBeZero o k = k := by
  simp [refuseShouldBeZero, h]

@[simp] theorem refuseShouldBeZero_set {o : A1Operands} (k : Result) (h : o.sbz ≠ 0#3) :
    refuseShouldBeZero o k = .refused .shouldBeZeroBitSet := by
  simp [refuseShouldBeZero, h]

/-- What passes the `(0)` bits has none set. -/
theorem refuseShouldBeZero_next {o : A1Operands} {k : Result} {t : State} (h : refuseShouldBeZero o k = .next t) :
    o.sbz = 0#3 ∧ k = .next t := by
  unfold refuseShouldBeZero at h
  split at h
  · exact ⟨‹_›, h⟩
  · cases h

theorem refuseShouldBeZero_fault {o : A1Operands} {k : Result} {f : Fault} (h : refuseShouldBeZero o k = .fault f) :
    o.sbz = 0#3 ∧ k = .fault f := by
  unfold refuseShouldBeZero at h
  split at h
  · exact ⟨‹_›, h⟩
  · cases h

theorem resolveSize_proceed (c : Option Size64Choice) {size : Nat} (h : size ≠ 64) :
    resolveSize c size = .proceed size := by
  simp [resolveSize, h]

@[simp] theorem resolveSize_byte (c : Option Size64Choice) : resolveSize c 8 = .proceed 8 := rfl
@[simp] theorem resolveSize_half (c : Option Size64Choice) : resolveSize c 16 = .proceed 16 := rfl
@[simp] theorem resolveSize_word (c : Option Size64Choice) : resolveSize c 32 = .proceed 32 := rfl
@[simp] theorem resolveSize_absent : resolveSize none 64 = .refuse .unpredictableSize64 := rfl
@[simp] theorem resolveSize_undef : resolveSize (some .undef) 64 = .undefined := rfl
@[simp] theorem resolveSize_nop : resolveSize (some .nop) 64 = .nop := rfl
@[simp] theorem resolveSize_size32 : resolveSize (some .size32) 64 = .proceed 32 := rfl

@[simp] theorem conditionPassed_always (f : NZCV) : conditionPassed alwaysCondition f = some true := by
  simp [conditionPassed]

theorem conditionPassed_other {c : BitVec 4} (f : NZCV) (h : c ≠ alwaysCondition) : conditionPassed c f = none := by
  simp [conditionPassed, h]

@[simp] theorem resolvePassed_some (b : Bool) : resolvePassed (some b) = .proceed b := rfl
@[simp] theorem resolvePassed_none : resolvePassed none = .refuse .conditionTableAbsent := rfl

@[simp] theorem resolveCond_always (ch : Option CondChoice) (f : NZCV) :
    resolveCond ch alwaysCondition f = .proceed true := by
  simp [resolveCond]

theorem resolveCond_absent {c : BitVec 4} (f : NZCV) (h : c ≠ alwaysCondition) :
    resolveCond none c f = .refuse .unpredictableCond := by
  simp [resolveCond, h]

theorem resolveCond_undef {c : BitVec 4} (f : NZCV) (h : c ≠ alwaysCondition) :
    resolveCond (some .undef) c f = .undefined := by
  simp [resolveCond, h]

theorem resolveCond_nop {c : BitVec 4} (f : NZCV) (h : c ≠ alwaysCondition) :
    resolveCond (some .nop) c f = .nop := by
  simp [resolveCond, h]

theorem resolveCond_uncond {c : BitVec 4} (f : NZCV) (h : c ≠ alwaysCondition) :
    resolveCond (some .uncond) c f = .proceed true := by
  simp [resolveCond, h]

theorem resolveCond_cond {c : BitVec 4} (f : NZCV) (h : c ≠ alwaysCondition) :
    resolveCond (some .cond) c f = .refuse .conditionTableAbsent := by
  simp [resolveCond, h, conditionPassed_other f h]

/-- The condition check does not read the flags: no defined condition depends on them (R20). -/
theorem resolveCond_flags (ch : Option CondChoice) (c : BitVec 4) (f g : NZCV) :
    resolveCond ch c f = resolveCond ch c g := rfl

end Sys2Proof.Machine
end

