-- ==== Sys2Proof/Laws/Exec.lean ====
section
/-! SUPPORT. What the Execute block, the two Decode blocks, the six instructions, a fetch and a step can do: one inversion
lemma each, cited instead of unfolding. -/

namespace Sys2Proof.Machine

/-- The two ways an instruction completes: it writes `x[d]` and advances, or (as a NOP) it only advances. Either way it is
recorded as completed. -/
def Completes (rd rn rm : RegField) (s t : State) : Prop :=
  s.pc.toNat + 4 < addressLimit ∧ s.params.haveCrc32 = true ∧
    ∃ r, regNums rd rn rm = some r ∧
      (t = completeAt s ∨
        ∃ size, t = completeAt (writeReg s r.d (crcExecute false size (readReg s r.n) (readReg s r.m))))

/-- The Execute block answers a next state in two ways only. -/
theorem executeBlock_next {passed c : Bool} {size : Nat} {r : RegNums} {s t : State}
    (h : executeBlock passed c size r s = .next t) :
    s.pc.toNat + 4 < addressLimit ∧
      t = completeAt (if passed then writeReg s r.d (crcExecute c size (readReg s r.n) (readReg s r.m)) else s) := by
  cases passed with
  | true => exact advancePc_next h
  | false => exact advancePc_next h

theorem executeBlock_no_fault (passed c : Bool) (size : Nat) (r : RegNums) (s : State) (f : Fault) :
    executeBlock passed c size r s ≠ .fault f := by
  cases passed <;> exact advancePc_no_fault _ f

theorem completes_of_executeBlock {passed : Bool} {size : Nat} {rd rn rm : RegField} {r : RegNums} {s t : State}
    (hc : s.params.haveCrc32 = true) (hr : regNums rd rn rm = some r)
    (h : executeBlock passed false size r s = .next t) : Completes rd rn rm s t := by
  obtain ⟨hp, ht⟩ := executeBlock_next h
  cases passed with
  | false => exact ⟨hp, hc, r, hr, .inl ht⟩
  | true => exact ⟨hp, hc, r, hr, .inr ⟨size, ht⟩⟩

theorem completes_of_advancePc {rd rn rm : RegField} {r : RegNums} {s t : State}
    (hc : s.params.haveCrc32 = true) (hr : regNums rd rn rm = some r) (h : advancePc s = .next t) :
    Completes rd rn rm s t := by
  obtain ⟨hp, ht⟩ := advancePc_next h
  exact ⟨hp, hc, r, hr, .inl ht⟩

/-- What class A1 can do when it answers a next state: the word has no `(0)` bit set, and it completes. -/
theorem runA1_next {sz : BitVec 2} {o : A1Operands} {s t : State} (h : runA1 sz o s = .next t) :
    o.sbz = 0#3 ∧ Completes o.rd o.rn o.rm s t := by
  unfold runA1 at h
  split at h
  · rename_i hc
    split at h
    · cases h
    · rename_i r hr
      obtain ⟨size, -, h⟩ | ⟨-, h⟩ := resolve_next h
      · obtain ⟨passed, -, h⟩ | ⟨-, h⟩ := resolve_next h
        · obtain ⟨hz, h⟩ := refuseShouldBeZero_next h
          exact ⟨hz, completes_of_executeBlock hc hr h⟩
        · obtain ⟨hz, h⟩ := refuseShouldBeZero_next h
          exact ⟨hz, completes_of_advancePc hc hr h⟩
      · obtain ⟨hz, h⟩ := refuseShouldBeZero_next h
        exact ⟨hz, completes_of_advancePc hc hr h⟩
  · cases h

/-- Class A1 faults in one way only. -/
theorem runA1_fault {sz : BitVec 2} {o : A1Operands} {s : State} {f : Fault} (h : runA1 sz o s = .fault f) :
    f = .undefined s.pc (encodeA1 sz o) := by
  unfold runA1 at h
  split at h
  · split at h
    · cases h
    · obtain ⟨size, -, h⟩ | ⟨-, h⟩ | ⟨-, h⟩ := resolve_fault h
      · obtain ⟨passed, -, h⟩ | ⟨-, h⟩ | ⟨-, h⟩ := resolve_fault h
        · exact absurd (refuseShouldBeZero_fault h).2 (executeBlock_no_fault _ _ _ _ _ f)
        · exact h
        · exact absurd (refuseShouldBeZero_fault h).2 (advancePc_no_fault _ f)
      · exact h
      · exact absurd (refuseShouldBeZero_fault h).2 (advancePc_no_fault _ f)
  · cases h; rfl

/-- What class T1 can do when it answers a next state. -/
theorem runT1_next {sz : BitVec 2} {o : T1Operands} {s t : State} (h : runT1 sz o s = .next t) :
    s.inItBlock = false ∧ Completes o.rd o.rn o.rm s t := by
  unfold runT1 at h
  split at h
  · cases h
  · rename_i hi
    split at h
    · rename_i hc
      split at h
      · cases h
      · rename_i r hr
        refine ⟨by simpa using hi, ?_⟩
        obtain ⟨size, -, h⟩ | ⟨-, h⟩ := resolve_next h
        · obtain ⟨passed, -, h⟩ | ⟨-, h⟩ := resolve_next h
          · exact completes_of_executeBlock hc hr h
          · exact completes_of_advancePc hc hr h
        · exact completes_of_advancePc hc hr h
    · cases h

/-- Class T1 faults in one way only. -/
theorem runT1_fault {sz : BitVec 2} {o : T1Operands} {s : State} {f : Fault} (h : runT1 sz o s = .fault f) :
    f = .undefined s.pc (encodeT1 sz o) := by
  unfold runT1 at h
  split at h
  · cases h
  · split at h
    · split at h
      · cases h
      · obtain ⟨size, -, h⟩ | ⟨-, h⟩ | ⟨-, h⟩ := resolve_fault h
        · obtain ⟨passed, -, h⟩ | ⟨-, h⟩ | ⟨-, h⟩ := resolve_fault h
          · exact absurd h (executeBlock_no_fault _ _ _ _ _ f)
          · exact h
          · exact absurd h (advancePc_no_fault _ f)
        · exact h
        · exact absurd h (advancePc_no_fault _ f)
    · cases h; rfl

/-- What any instruction can do when it answers a next state. -/
theorem exec_next {i : Instr} {s t : State} (h : exec i s = .next t) :
    Completes i.rdField i.rnField i.rmField s t := by
  cases i with
  | crc32bA1 o => exact (runA1_next h).2
  | crc32hA1 o => exact (runA1_next h).2
  | crc32wA1 o => exact (runA1_next h).2
  | crc32bT1 o => exact (runT1_next h).2
  | crc32hT1 o => exact (runT1_next h).2
  | crc32wT1 o => exact (runT1_next h).2

/-- Any instruction faults in one way only: UNDEFINED, recording its own address and pattern. -/
theorem exec_fault {i : Instr} {s : State} {f : Fault} (h : exec i s = .fault f) : f = .undefined s.pc (encode i) := by
  cases i with
  | crc32bA1 o => exact runA1_fault h
  | crc32hA1 o => exact runA1_fault h
  | crc32wA1 o => exact runA1_fault h
  | crc32bT1 o => exact runT1_fault h
  | crc32hT1 o => exact runT1_fault h
  | crc32wT1 o => exact runT1_fault h

/-- A fetch that answers bytes read them at `pc`. -/
theorem fetch_ok {s : State} {bs : List Byte} (h : fetch s = .ok bs) : memRead s.mem s.pc.toNat 4 = .ok bs := by
  unfold fetch at h
  split at h
  · cases h; assumption
  · split at h <;> cases h

/-- A fetch that stops says why: the run is over, or the text does not cover a byte of the instruction. -/
theorem fetch_error {s : State} {f : Fault} (h : fetch s = .error f) :
    (f = .runOver ∧ atRunEnd s = true) ∨
      (atRunEnd s ≠ true ∧
        ∃ a, f = .fetchOutsideText a ∧ s.pc.toNat ≤ a ∧ a < s.pc.toNat + 4 ∧ readByte s.mem a = none) := by
  unfold fetch at h
  split at h
  · cases h
  · rename_i a ha
    split at h
    · cases h; exact .inl ⟨rfl, ‹_›⟩
    · cases h
      obtain ⟨h1, h2, h3⟩ := memRead_error ha
      exact .inr ⟨‹_›, a, rfl, h1, h2, h3⟩

/-- At the end of a run no byte is fetched. -/
theorem fetch_runEnd {s : State} (h : atRunEnd s = true) : fetch s = .error .runOver := by
  simp [fetch, memRead, readByte_textEnd (atRunEnd_iff.1 h).2, h]

/-- What a step can do when it answers a next state. -/
theorem runStep_next {s t : State} (h : runStep s = .next t) :
    pcAligned s = true ∧ ∃ bs, fetch s = .ok bs ∧ runDecoded (decodeBytes s.iset bs) s = .next t := by
  unfold runStep at h
  split at h
  · rename_i ha
    split at h
    · cases h
    · exact ⟨ha, _, ‹_›, h⟩
  · cases h

/-- What the fetched bytes can do when they answer a next state. -/
theorem runDecoded_next {d : Decoded} {s t : State} (h : runDecoded d s = .next t) :
    ∃ rd rn rm, Completes rd rn rm s t := by
  cases d with
  | instr i => exact ⟨_, _, _, exec_next h⟩
  | size64A1 o => exact ⟨_, _, _, (runA1_next h).2⟩
  | size64T1 o => exact ⟨_, _, _, (runT1_next h).2⟩
  | undecoded why => cases h

/-- What the fetched bytes can do when they fault: UNDEFINED, at the address of the instruction. -/
theorem runDecoded_fault {d : Decoded} {s : State} {f : Fault} (h : runDecoded d s = .fault f) :
    ∃ p, f = .undefined s.pc p := by
  cases d with
  | instr i => exact ⟨_, exec_fault h⟩
  | size64A1 o => exact ⟨_, runA1_fault h⟩
  | size64T1 o => exact ⟨_, runT1_fault h⟩
  | undecoded why => cases h

/-- What a step can do when it faults: UNDEFINED, or a fetch that stops. -/
theorem runStep_fault {s : State} {f : Fault} (h : runStep s = .fault f) :
    pcAligned s = true ∧ ((∃ p, f = .undefined s.pc p) ∨ fetch s = .error f) := by
  unfold runStep at h
  split at h
  · rename_i ha
    refine ⟨ha, ?_⟩
    split at h
    · cases h; exact .inr ‹_›
    · exact .inl (runDecoded_fault h)
  · cases h

end Sys2Proof.Machine
end

