-- ==== Sys2Proof/Laws/PerInstr.lean ====
section
/-! SUPPORT. The statements made per instruction: the encoder sets the fixed bits of each row of spec/opcode_table.json. -/

namespace Sys2Proof.Laws

/-- The mask of an encoding's fixed bits, `sz` among them (R67, R73, R75). -/
def rowMask : Instr → Word
  | .crc32bA1 _ => 0x0FF002F0#32
  | .crc32hA1 _ => 0x0FF002F0#32
  | .crc32wA1 _ => 0x0FF002F0#32
  | .crc32bT1 _ => 0xFFF0F0F0#32
  | .crc32hT1 _ => 0xFFF0F0F0#32
  | .crc32wT1 _ => 0xFFF0F0F0#32

/-- The match value of an encoding (R67, R73, R75). -/
def rowMatch : Instr → Word
  | .crc32bA1 _ => 0x01000040#32
  | .crc32hA1 _ => 0x01200040#32
  | .crc32wA1 _ => 0x01400040#32
  | .crc32bT1 _ => 0xFAC0F080#32
  | .crc32hT1 _ => 0xFAC0F090#32
  | .crc32wT1 _ => 0xFAC0F0A0#32

/-- The word of an instruction has the fixed bits of its row. -/
def EncodesInClass.Statement (i : Instr) : Prop :=
  encode i &&& rowMask i = rowMatch i

theorem rowBits_A1 (sz : BitVec 2) (o : A1Operands) :
    encodeA1 sz o &&& 0x0FF002F0#32 = 0x01000040#32 ||| (sz.setWidth 32 <<< 21) := by
  apply BitVec.eq_of_getLsbD_eq
  intro k hk
  rw [BitVec.getLsbD_and, getLsbD_encodeA1 sz o hk]
  interval_cases k <;> simp

theorem rowBits_T1 (sz : BitVec 2) (o : T1Operands) :
    encodeT1 sz o &&& 0xFFF0F0F0#32 = 0xFAC0F080#32 ||| (sz.setWidth 32 <<< 4) := by
  apply BitVec.eq_of_getLsbD_eq
  intro k hk
  rw [BitVec.getLsbD_and, getLsbD_encodeT1 sz o hk]
  interval_cases k <;> simp

theorem EncodesInClass.crc32bA1 (o : A1Operands) : EncodesInClass.Statement (.crc32bA1 o) :=
  (rowBits_A1 0b00#2 o).trans rfl

theorem EncodesInClass.crc32hA1 (o : A1Operands) : EncodesInClass.Statement (.crc32hA1 o) :=
  (rowBits_A1 0b01#2 o).trans rfl

theorem EncodesInClass.crc32wA1 (o : A1Operands) : EncodesInClass.Statement (.crc32wA1 o) :=
  (rowBits_A1 0b10#2 o).trans rfl

theorem EncodesInClass.crc32bT1 (o : T1Operands) : EncodesInClass.Statement (.crc32bT1 o) :=
  (rowBits_T1 0b00#2 o).trans rfl

theorem EncodesInClass.crc32hT1 (o : T1Operands) : EncodesInClass.Statement (.crc32hT1 o) :=
  (rowBits_T1 0b01#2 o).trans rfl

theorem EncodesInClass.crc32wT1 (o : T1Operands) : EncodesInClass.Statement (.crc32wT1 o) :=
  (rowBits_T1 0b10#2 o).trans rfl

end Sys2Proof.Laws
end

