-- ==== Sys2Proof/Tests/Slice0.lean ====
section
/-! SUPPORT. The model's own tests. Expected results are taken from spec/95_test_vectors.md, from the examples of R84 and
R105 to R110, or worked by hand from the rule named. Then one witness for the hypotheses of each statement. -/

namespace Sys2Proof.Tests

open Sys2Proof.Machine
open Sys2Proof.Config (ISet Size64Choice CondChoice)

/-! ### Helpers -/

/-- A launch with the feature, both constrained choices absent, `x[1]` and `x[2]` set and the given `pc`. -/
def launch (iset : ISet) (pc x1 x2 : Word) : State :=
  { State.reset with
    iset := iset
    pc := pc
    x := ((Vector.replicate 15 0#32).set 1 x1).set 2 x2
    params := { haveCrc32 := true, cuSize64 := none, cuCond := none } }

/-- That launch with other parameters. -/
def withParams (s : State) (have32 : Bool) (size64 : Option Size64Choice) (cond : Option CondChoice) : State :=
  { s with params := { haveCrc32 := have32, cuSize64 := size64, cuCond := cond } }

/-- The register and `pc` a result holds, `none` where it is no next state. -/
def regAndPc (r : Result) (i : Fin 15) : Option (Word × Word) :=
  match r with
  | .next s => some (s.x[i], s.pc)
  | .fault _ => none
  | .refused _ => none

/-- The fault of a result. -/
def faultOf (r : Result) : Option Fault :=
  match r with
  | .fault f => some f
  | .next _ => none
  | .refused _ => none

/-- The refusal of a result. -/
def refusalOf (r : Result) : Option Refusal :=
  match r with
  | .refused q => some q
  | .next _ => none
  | .fault _ => none

/-- The fields of `CRC32x R0, R1, R2` in A1. -/
def a1 : A1Operands := ⟨0b1110#4, 1#4, 0#4, 0b000#3, 2#4⟩

/-- The fields of `CRC32x R0, R1, R2` in T1. -/
def t1 : T1Operands := ⟨1#4, 0#4, 2#4⟩

/-! ### WellFormed: a term for each check, which the check refuses -/

theorem test_wellFormed_accepts : (Instr.crc32bA1 a1).wellFormed = true ∧ (Instr.crc32wT1 t1).wellFormed = true := by
  decide
theorem test_wellFormed_refuses_cond_1111 : (Instr.crc32bA1 { a1 with cond := 0b1111#4 }).wellFormed = false := by decide
theorem test_isDefined_accepts : (Instr.crc32hA1 a1).isDefined = true ∧ (Instr.crc32hT1 t1).isDefined = true := by decide
theorem test_isDefined_refuses_cond : (Instr.crc32bA1 { a1 with cond := 0b0000#4 }).isDefined = false := by decide
theorem test_isDefined_refuses_sbz : (Instr.crc32bA1 { a1 with sbz := 0b100#3 }).isDefined = false := by decide
theorem test_isDefined_refuses_rd : (Instr.crc32bA1 { a1 with rd := 15#4 }).isDefined = false := by decide
theorem test_isDefined_refuses_rn : (Instr.crc32bA1 { a1 with rn := 15#4 }).isDefined = false := by decide
theorem test_isDefined_refuses_rm : (Instr.crc32bA1 { a1 with rm := 15#4 }).isDefined = false := by decide
theorem test_isDefined_refuses_t1_rd : (Instr.crc32bT1 { t1 with rd := 15#4 }).isDefined = false := by decide
theorem test_isDefined_refuses_t1_rn : (Instr.crc32bT1 { t1 with rn := 15#4 }).isDefined = false := by decide
theorem test_isDefined_refuses_t1_rm : (Instr.crc32bT1 { t1 with rm := 15#4 }).isDefined = false := by decide

/-! ### Decode: words written out bit by bit from the diagrams (R66, R72), then section 3 of 95_test_vectors.md -/

theorem test_decode_crc32bA1 : decode .a32 0b1110_00010_00_0_0001_0000_0_0_0_0_0100_0010#32 = .instr (.crc32bA1 a1) := by
  decide
theorem test_decode_crc32hA1 : decode .a32 0b1110_00010_01_0_0100_0011_0_0_0_0_0100_0101#32 =
    .instr (.crc32hA1 ⟨14#4, 4#4, 3#4, 0#3, 5#4⟩) := by decide
theorem test_decode_crc32wA1 : decode .a32 0b1110_00010_10_0_1101_1110_0_0_0_0_0100_1100#32 =
    .instr (.crc32wA1 ⟨14#4, 13#4, 14#4, 0#3, 12#4⟩) := by decide
theorem test_decode_crc32bT1 : decode .t32 0b111110101_10_0_0001_1111_0000_10_00_0010#32 = .instr (.crc32bT1 t1) := by
  decide
theorem test_decode_crc32hT1 : decode .t32 0b111110101_10_0_0100_1111_0011_10_01_0101#32 =
    .instr (.crc32hT1 ⟨4#4, 3#4, 5#4⟩) := by decide
theorem test_decode_crc32wT1 : decode .t32 0b111110101_10_0_1101_1111_1110_10_10_1100#32 =
    .instr (.crc32wT1 ⟨13#4, 14#4, 12#4⟩) := by decide

theorem test_decode_sbz_and_cond_are_kept : decode .a32 0b0000_00010_00_0_0001_0000_1_0_0_1_0100_0010#32 =
    .instr (.crc32bA1 ⟨0b0000#4, 1#4, 0#4, 0b101#3, 2#4⟩) := by decide
theorem test_decode_sz11 : decode .a32 0xE1610042#32 = .size64A1 a1 ∧ decode .t32 0xFAC1F0B2#32 = .size64T1 t1 := by decide
theorem test_decode_cond_1111 : decode .a32 0xF1010042#32 = .undecoded .condition1111 := by decide
theorem test_decode_outside_A1 : decode .a32 0xE1010242#32 = .undecoded .outsideClassA1 ∧
    decode .a32 0xE1110042#32 = .undecoded .outsideClassA1 ∧ decode .a32 0xE1010052#32 = .undecoded .outsideClassA1 := by
  decide
theorem test_decode_outside_T1 : decode .t32 0xFAD1F082#32 = .undecoded .outsideClassT1 ∧
    decode .t32 0xFAC1F002#32 = .undecoded .outsideClassT1 ∧ decode .t32 0xFAC1E082#32 = .undecoded .outsideClassT1 ∧
    decode .t32 0xE1010042#32 = .undecoded .outsideClassT1 := by decide
theorem test_decode_three_bytes : decodeBytes .a32 [0x42#8, 0x00#8, 0x01#8] = .undecoded .notFourBytes := by decide
theorem test_bytes_A32 : encodeBytes (.crc32hA1 ⟨14#4, 4#4, 3#4, 0#3, 5#4⟩) = [0x45#8, 0x30#8, 0x24#8, 0xE1#8] := by decide
theorem test_bytes_T32 : encodeBytes (.crc32hT1 ⟨4#4, 3#4, 5#4⟩) = [0xC4#8, 0xFA#8, 0x95#8, 0xF3#8] := by decide
theorem test_decodeTableWord : decodeTableWord 32 0xE1010042 = some (.crc32bA1 a1) ∧
    decodeTableWord 32 0xFAC1F082 = some (.crc32bT1 t1) ∧ decodeTableWord 32 0xFAC1F0B2 = none := by decide
theorem test_assemble : (assemble .a32 ⟨.crc32w, .wide, 14, 13, 12⟩).map encode = some 0xE14DE04C#32 ∧
    assemble .t32 ⟨.crc32w, .narrow, 14, 13, 12⟩ = none ∧
    disassemble (.crc32wT1 ⟨13#4, 14#4, 12#4⟩) = some ⟨.crc32w, .omitted, 14, 13, 12⟩ ∧
    disassemble (.crc32wT1 ⟨15#4, 14#4, 12#4⟩) = none := by decide

/-- The assembly column of section 3.1. -/
theorem test_text : AsmLine.text ⟨.crc32w, .omitted, 14, 13, 12⟩ = "CRC32W R14, R13, R12" := by decide

/-! ### The CRC function (95_test_vectors.md sections 2.1, 2.2, 2.4; the hand trace of R103) -/

theorem test_crc_hand_trace : crc32Step 0#32 1#32 8 = 0x77073096#32 := by decide +kernel
theorem test_crc_top_bit : crc32Step 0x80000000#32 0#32 32 = 0xEDB88320#32 := by decide +kernel
theorem test_crc_general : crc32Step 0x12345678#32 0x9ABCDEF0#32 8 = 0xE3713F44#32 ∧
    crc32Step 0x12345678#32 0x9ABCDEF0#32 16 = 0x10390B65#32 ∧
    crc32Step 0x12345678#32 0x9ABCDEF0#32 32 = 0xD7F2CDBD#32 := by decide +kernel
theorem test_crc_ignores_upper_bits : crc32Step 0#32 0x100#32 8 = 0#32 ∧ crc32Step 0#32 0x10000#32 16 = 0#32 := by decide +kernel
theorem test_crc32c_branch : crcExecute true 8 0#32 0x80#32 = 0x82F63B78#32 := by decide +kernel

/-! ### One step each (the examples of R105 to R110) -/

theorem test_step_crc32bA1 : regAndPc (step ((launch .a32 0x1000#32 0xFFFFFFFF#32 0x31#32).withFetchWord 32 0xE1010042)) 0 =
    some (0x7C231048#32, 0x1004#32) := by decide +kernel
theorem test_step_crc32hA1 :
    regAndPc (step ((launch .a32 0x1000#32 0xFFFFFFFF#32 0x3231#32).withFetchWord 32 0xE1210042)) 0 =
      some (0xB0ACBB32#32, 0x1004#32) := by decide +kernel
theorem test_step_crc32wA1 :
    regAndPc (step ((launch .a32 0x1000#32 0xFFFFFFFF#32 0x34333231#32).withFetchWord 32 0xE1410042)) 0 =
      some (0x641C1F5C#32, 0x1004#32) := by decide +kernel
theorem test_step_crc32bT1 : regAndPc (step ((launch .t32 0x1002#32 0#32 1#32).withFetchWord 32 0xFAC1F082)) 0 =
    some (0x77073096#32, 0x1006#32) := by decide +kernel
theorem test_step_crc32hT1 : regAndPc (step ((launch .t32 0x1002#32 0#32 1#32).withFetchWord 32 0xFAC1F092)) 0 =
    some (0x191B3141#32, 0x1006#32) := by decide +kernel
theorem test_step_crc32wT1 : regAndPc (step ((launch .t32 0x1002#32 0#32 1#32).withFetchWord 32 0xFAC1F0A2)) 0 =
    some (0xB8BC6765#32, 0x1006#32) := by decide +kernel

/-- Step (1) of program P3: `CRC32H R2, R2, R2`, source and destination the same. -/
theorem test_step_same_register :
    regAndPc (step ((launch .a32 0#32 0#32 0x12345678#32).withFetchWord 32 0xE1222042)) 2 = some (0x1234#32, 4#32) := by
  decide +kernel
/-- Program P4: registers 13 and 14 are ordinary operands. -/
theorem test_step_registers_13_14 : regAndPc (step
    (({ launch .t32 0#32 0#32 0#32 with
        x := ((Vector.replicate 15 0#32).set 12 0xBEEF#32).set 13 0xFFFFFFFF#32 } : State).withFetchWord 32
      0xFACDFE9C)) 14 = some (0x4B199CA8#32, 4#32) := by decide +kernel

/-! ### Faults and refusals (95_test_vectors.md section 3.2) -/

theorem test_undefined : faultOf (exec (.crc32bA1 a1) (withParams (launch .a32 0x1000#32 0#32 0#32) false none none)) =
    some (.undefined 0x1000#32 0xE1010042#32) := by decide
theorem test_it_block_before_feature :
    refusalOf (exec (.crc32bT1 t1)
      { withParams (launch .t32 0#32 0#32 0#32) false none none with inItBlock := true }) =
      some .unpredictableItBlock := by decide
theorem test_feature_before_reg15 : faultOf (exec (.crc32bA1 { a1 with rd := 15#4, rm := 15#4 })
    (withParams (launch .a32 0#32 0#32 0#32) false none none)) = some (.undefined 0#32 0xE101F04F#32) := by decide
theorem test_reg15 : refusalOf (exec (.crc32hT1 { t1 with rm := 15#4 }) (launch .t32 0#32 0#32 0#32)) =
    some .unpredictableReg15 := by decide
theorem test_sbz : refusalOf (exec (.crc32wA1 { a1 with sbz := 0b001#3 }) (launch .a32 0#32 0#32 0#32)) =
    some .shouldBeZeroBitSet := by decide
theorem test_cond_absent : refusalOf (exec (.crc32bA1 { a1 with cond := 0b1101#4 }) (launch .a32 0#32 0#32 0#32)) =
    some .unpredictableCond := by decide
theorem test_cond_choice_cond : refusalOf (exec (.crc32bA1 { a1 with cond := 0b0000#4 })
    (withParams (launch .a32 0#32 0#32 0#32) true none (some .cond))) = some .conditionTableAbsent := by decide
theorem test_cond_choice_nop : regAndPc (exec (.crc32bA1 { a1 with cond := 0b0000#4 })
    (withParams (launch .a32 0#32 0#32 1#32) true none (some .nop))) 0 = some (0#32, 4#32) := by decide
/-- R71 with R76 step 6: a NOP choice does not let a word with a `(0)` bit set complete. -/
theorem test_nop_choices_refuse_sbz :
    refusalOf (exec (.crc32bA1 { a1 with cond := 0b0000#4, sbz := 0b100#3 })
      (withParams (launch .a32 0#32 0#32 1#32) true none (some .nop))) = some .shouldBeZeroBitSet ∧
    refusalOf (execSize64A1 { a1 with sbz := 0b001#3 }
      (withParams (launch .a32 0#32 0#32 1#32) true (some .nop) none)) = some .shouldBeZeroBitSet := by decide
theorem test_size64_absent : refusalOf (step ((launch .t32 0#32 0#32 1#32).withFetchWord 32 0xFAC1F0B2)) =
    some .unpredictableSize64 := by decide
theorem test_size64_choice_size32 : regAndPc (step
    ((withParams (launch .a32 0#32 0#32 1#32) true (some .size32) none).withFetchWord 32 0xE1610042)) 0 =
      some (0xB8BC6765#32, 4#32) := by decide +kernel
theorem test_reset_step_is_stuck : faultOf (step State.reset) = some (.fetchOutsideText 0) := by decide
theorem test_misaligned : refusalOf (step (launch .a32 2#32 0#32 0#32)) = some .misalignedPc := by decide
theorem test_wrap : refusalOf (exec (.crc32bA1 a1) (launch .a32 0xFFFFFFFC#32 0#32 0#32)) = some .pcWrap := by decide
/-- R153, by hand: just past the text the run is over after a completed instruction, and a launch there is stuck. -/
theorem test_run_over : faultOf (step { ((launch .a32 0#32 0#32 0#32).withFetchWord 32 0xE1010042) with
    pc := 4#32, completed := true }) = some .runOver := by decide
theorem test_launch_at_the_end_is_stuck :
    faultOf (step { ((launch .a32 0#32 0#32 0#32).withFetchWord 32 0xE1010042) with pc := 4#32 }) =
      some (.fetchOutsideText 4) := by decide

end Sys2Proof.Tests
end

