-- ==== Sys2Proof/Tests/Witnesses.lean ====
section
/-! SUPPORT. For each statement with hypotheses, a concrete state and operands that meet all of them together, for each of
its clauses, at a boundary value where there is one. -/

namespace Sys2Proof.Tests

open Sys2Proof.Machine
open Sys2Proof.Config (ISet Size64Choice CondChoice)

theorem next_of_regAndPc {r : Result} {i : Fin 15} (h : (regAndPc r i).isSome = true) : ∃ t, r = .next t := by
  cases r with
  | next t => exact ⟨t, rfl⟩
  | fault f => cases h
  | refused q => cases h

theorem fault_of_faultOf {r : Result} {f : Fault} (h : faultOf r = some f) : r = .fault f := by
  cases r with
  | next t => cases h
  | fault g => cases h; rfl
  | refused q => cases h

theorem refused_of_refusalOf {r : Result} {q : Refusal} (h : refusalOf r = some q) : r = .refused q := by
  cases r with
  | next t => cases h
  | fault g => cases h
  | refused q' => cases h; rfl

/-- The operands at the edge of what is defined: registers 14, 13 and 12. -/
def a1Edge : A1Operands := ⟨0b1110#4, 13#4, 14#4, 0b000#3, 12#4⟩
def t1Edge : T1Operands := ⟨13#4, 14#4, 12#4⟩

/-- The highest aligned `pc` from which an instruction completes. -/
def edge (iset : ISet) (pc : Word) : State := launch iset pc 0xFFFFFFFF#32 0x31#32

/-! ### Encoding -/

theorem witness_DecodeBytesOfEncodeBytes :
    (Instr.crc32bA1 ⟨0b1110#4, 15#4, 15#4, 0b111#3, 15#4⟩).wellFormed = true ∧ (Instr.crc32wT1 t1Edge).wellFormed = true := by
  decide
theorem witness_EncodeOfDecodedInstr : decode .a32 0xE14DE04C#32 = .instr (.crc32wA1 a1Edge) ∧
    decode .t32 0xFACDFEAC#32 = .instr (.crc32wT1 t1Edge) := by decide
theorem witness_A1MatchAndMask : 0xE1610042#32 &&& 0x0FF002F0#32 = 0x01600040#32 := by decide
theorem witness_T1MatchAndMask : 0xFAC1F0B2#32 &&& 0xFFF0F0F0#32 = 0xFAC0F0B0#32 := by decide
theorem witness_AssembledWords :
    let l : AsmLine := ⟨.crc32w, .wide, 14, 14, 14⟩
    let sz : BitVec 2 := 2#2
    l.qualifier ≠ .narrow ∧
      ((l.mnemonic = .crc32b ∧ sz = 0#2) ∨ (l.mnemonic = .crc32h ∧ sz = 1#2) ∨ (l.mnemonic = .crc32w ∧ sz = 2#2)) ∧
      (⟨.crc32b, .narrow, 0, 0, 0⟩ : AsmLine).qualifier = .narrow := by
  decide
/-- For PatternsOutsideTheClassesAreUndecoded, clause by clause. -/
theorem witness_PatternsOutsideTheClasses :
    (0xE1010242#32).getLsbD 9 = true ∧ (0xFAD1F082#32).getLsbD 20 = true ∧
    (inClassA1 0xF1010042#32 = true ∧ (0xF1010042#32).extractLsb' 28 4 = 0b1111#4) ∧
    inClassA1 0xE1010042#32 = true ∧ inClassT1 0xFAC1F082#32 = true := by decide

/-! ### The CRC function: the smallest length, the three sizes, the top bit -/

/-- For Poly32Mod2IsTheRemainder, at the smallest length. -/
theorem witness_Poly32Mod2 : 32 < 33 := by decide
/-- For CrcIsThePolynomialRemainder, ShiftFormComputesCrc32Step, Crc32StepIsLinear and Crc32StepIsBijective. -/
theorem witness_crc_sizes_and_bit : (8 = 8 ∨ 8 = 16 ∨ 8 = 32) ∧ (32 = 8 ∨ 32 = 16 ∨ 32 = 32) ∧ 31 < 32 := by decide

/-! ### What each encoding does -/

/-- For Crc32bA1WritesTheCrc, Crc32hA1WritesTheCrc and Crc32wA1WritesTheCrc, which have the same hypotheses. -/
theorem witness_A1WritesTheCrc : let s := edge .a32 0xFFFFFFF8#32
    s.params.haveCrc32 = true ∧ a1Edge.cond = 0b1110#4 ∧ a1Edge.sbz = 0#3 ∧ a1Edge.rd.toNat = (14 : Fin 15).val ∧
    a1Edge.rn.toNat = (13 : Fin 15).val ∧ a1Edge.rm.toNat = (12 : Fin 15).val ∧ s.pc.toNat + 4 < 2 ^ 32 := by decide
/-- For Crc32bT1WritesTheCrc, Crc32hT1WritesTheCrc and Crc32wT1WritesTheCrc, which have the same hypotheses. -/
theorem witness_T1WritesTheCrc : let s := edge .t32 0xFFFFFFFA#32
    s.inItBlock = false ∧ s.params.haveCrc32 = true ∧ t1Edge.rd.toNat = (14 : Fin 15).val ∧
    t1Edge.rn.toNat = (13 : Fin 15).val ∧ t1Edge.rm.toNat = (12 : Fin 15).val ∧ s.pc.toNat + 4 < 2 ^ 32 := by decide

/-- Also the witness of FlagsAndDitDoNotInfluence's first clause and, with `iset = A32`, of ItBlockRefusesT1Only's second. -/
theorem witness_ExecChangesOnlyDestinationAndPc :
    (∃ t, exec (.crc32wA1 a1Edge) (edge .a32 0xFFFFFFF8#32) = .next t) ∧
    (∃ t, exec (.crc32bT1 t1Edge) (edge .t32 0xFFFFFFFA#32) = .next t) :=
  ⟨next_of_regAndPc (i := 0) (by decide +kernel), next_of_regAndPc (i := 0) (by decide +kernel)⟩

/-- Also the witness of ItBlockRefusesT1Only's last two clauses. -/
theorem witness_FlagsAndDitDoNotInfluence :
    exec (.crc32bA1 a1) (withParams (edge .a32 0#32) false none none) = .fault (.undefined 0#32 0xE1010042#32) ∧
    exec (.crc32bA1 { a1 with rd := 15#4 }) (edge .a32 0#32) = .refused .unpredictableReg15 :=
  ⟨fault_of_faultOf (by decide), refused_of_refusalOf (by decide)⟩

theorem witness_UpperDataBitsAreIgnored : let s := edge .a32 0xFFFFFFF8#32
    (Instr.crc32bA1 a1).isDefined = true ∧ a1.rd.toNat = (0 : Fin 15).val ∧ a1.rn.toNat = (1 : Fin 15).val ∧
    a1.rm.toNat = (2 : Fin 15).val ∧ (1 : Fin 15) ≠ 2 ∧
    (0xFFFFFF31#32).setWidth (sizeOfSz (Instr.crc32bA1 a1).szField) =
      (s.x[(2 : Fin 15)]).setWidth (sizeOfSz (Instr.crc32bA1 a1).szField) ∧
    ∃ t, exec (.crc32bA1 a1) s = .next t :=
  ⟨by decide, by decide, by decide, by decide, by decide, by decide, next_of_regAndPc (i := 0) (by decide +kernel)⟩

theorem witness_A1AndT1ComputeTheSame :
    (edge .t32 0#32).params.haveCrc32 = true ∧ (edge .t32 0#32).inItBlock = false := by decide

/-! ### The UNDEFINED exception and the UNPREDICTABLE cases -/

theorem witness_UndefinedWithoutTheFeature : let s := withParams (edge .t32 0#32) false none none
    s.params.haveCrc32 = false ∧ ((Instr.crc32bT1 t1).iset = .t32 → s.inItBlock = false) ∧
    ((Instr.crc32bA1 a1).iset = .t32 → s.inItBlock = false) := by decide
theorem witness_NoFaultWithTheFeature : let s := withParams (edge .a32 0#32) true (some .undef) (some .nop)
    s.params.haveCrc32 = true ∧ s.params.cuCond ≠ some .undef := by decide
theorem witness_NothingCompletesWithoutTheFeature :
    (withParams (edge .a32 0#32) false none none).params.haveCrc32 = false := by decide
theorem witness_FeatureFieldIndicatesSupport :
    (Instr.crc32hA1 a1Edge).isDefined = true ∧ (Instr.crc32hT1 t1Edge).isDefined = true ∧
    (edge .a32 0xFFFFFFF8#32).inItBlock = false ∧ (edge .a32 0xFFFFFFF8#32).pc.toNat + 4 < 2 ^ 32 := by decide
theorem witness_Register15IsRefused : let s := edge .t32 0#32
    let i := Instr.crc32bT1 { t1 with rm := 15#4 }
    s.params.haveCrc32 = true ∧ (i.iset = .t32 → s.inItBlock = false) ∧
    (i.rdField = 15#4 ∨ i.rnField = 15#4 ∨ i.rmField = 15#4) := by decide
/-- The clauses of ItBlockRefusesT1Only about `sz == 11` in A1. -/
theorem witness_ItBlock_size64 :
    (∃ t, execSize64A1 a1 (withParams (edge .a32 0xFFFFFFF8#32) true (some .nop) none) = .next t) ∧
    execSize64A1 a1 (edge .a32 0#32) = .refused .unpredictableSize64 ∧
    execSize64A1 a1 (withParams (edge .a32 0#32) true (some .undef) none) = .fault (.undefined 0#32 0xE1610042#32) :=
  ⟨next_of_regAndPc (i := 0) (by decide), refused_of_refusalOf (by decide), fault_of_faultOf (by decide)⟩
/-- For ItBlockRefusesT1Only and NothingCompletesInAnItBlock. -/
theorem witness_ItBlock : let s : State := { edge .t32 0#32 with inItBlock := true }
    s.iset = .t32 ∧ s.inItBlock = true ∧ (Instr.crc32bA1 a1).iset = .a32 := by decide
theorem witness_Size64Choices : a1.sbz = 0#3 ∧ a1.rd ≠ 15#4 ∧ a1.rn ≠ 15#4 ∧ a1.rm ≠ 15#4 ∧ t1.rd ≠ 15#4 ∧ t1.rn ≠ 15#4 ∧ t1.rm ≠ 15#4 ∧
    (edge .t32 0#32).inItBlock = false ∧ (edge .a32 0xFFFFFFF8#32).pc.toNat + 4 < 2 ^ 32 ∧
    (∀ c, (withParams (edge .a32 0xFFFFFFF8#32) true c none).params.haveCrc32 = true ∧
      (withParams (edge .a32 0xFFFFFFF8#32) true c none).params.cuSize64 = c) :=
  ⟨rfl, by decide, by decide, by decide, by decide, by decide, by decide, by decide, by decide, fun _ => ⟨rfl, rfl⟩⟩
theorem witness_Size64Choices_size32 :
    (∃ t, exec (.crc32wA1 a1) (withParams (edge .a32 0#32) true (some .size32) none) = .next t) ∧
    exec (.crc32wA1 { a1 with sbz := 1#3 }) (withParams (edge .a32 0#32) true (some .size32) none) =
      .refused .shouldBeZeroBitSet ∧
    exec (.crc32wA1 { a1 with cond := 0#4 }) (withParams (edge .a32 0#32) true (some .size32) (some .undef)) =
      .fault (.undefined 0#32 0x01410042#32) :=
  ⟨next_of_regAndPc (i := 0) (by decide +kernel), refused_of_refusalOf (by decide), fault_of_faultOf (by decide)⟩
theorem witness_Size64Choices_words :
    (inClassA1 0xE1610042#32 = true ∧ (0xE1610042#32).extractLsb' 28 4 ≠ 0b1111#4 ∧ szA1 0xE1610042#32 = 0b11#2) ∧
    (inClassT1 0xFAC1F0B2#32 = true ∧ szT1 0xFAC1F0B2#32 = 0b11#2) ∧
    assemble .a32 ⟨.crc32b, .omitted, 0, 1, 2⟩ = some (.crc32bA1 a1) := by decide
theorem witness_ConditionChoices : ∀ c ∈ [0b0000#4, 0b1101#4],
    c ≠ 0b1110#4 ∧ c ≠ 0b1111#4 ∧ a1.rd ≠ 15#4 ∧ a1.rn ≠ 15#4 ∧ a1.rm ≠ 15#4 ∧
    (edge .a32 0xFFFFFFF8#32).pc.toNat + 4 < 2 ^ 32 ∧
    (∀ ch, (withParams (edge .a32 0xFFFFFFF8#32) true none ch).params.haveCrc32 = true ∧
      (withParams (edge .a32 0xFFFFFFF8#32) true none ch).params.cuCond = ch) := by
  intro c hc
  refine ⟨?_, ?_, by decide, by decide, by decide, by decide, fun _ => ⟨rfl, rfl⟩⟩
  · revert c; decide
  · revert c; decide
theorem witness_ConditionChoices_T1 : (0xF1010042#32).extractLsb' 28 4 = 0b1111#4 ∧ (Instr.crc32bT1 t1).iset = .t32 ∧
    (∃ t, exec (.crc32bT1 t1) (edge .t32 0xFFFFFFFA#32) = .next t) ∧
    exec (.crc32bT1 { t1 with rm := 15#4 }) (edge .t32 0#32) = .refused .unpredictableReg15 ∧
    exec (.crc32bT1 t1) (withParams (edge .t32 0#32) false none none) = .fault (.undefined 0#32 0xFAC1F082#32) :=
  ⟨by decide, by decide, next_of_regAndPc (i := 0) (by decide +kernel), refused_of_refusalOf (by decide),
    fault_of_faultOf (by decide)⟩
theorem witness_ConditionChoices_size64T1 :
    (∃ t, execSize64T1 t1 (withParams (edge .t32 0xFFFFFFFA#32) true (some .nop) none) = .next t) ∧
    execSize64T1 t1 (edge .t32 0#32) = .refused .unpredictableSize64 ∧
    execSize64T1 t1 (withParams (edge .t32 0#32) true (some .undef) none) = .fault (.undefined 0#32 0xFAC1F0B2#32) :=
  ⟨next_of_regAndPc (i := 0) (by decide), refused_of_refusalOf (by decide), fault_of_faultOf (by decide)⟩
theorem witness_FirstTestReachedDecides : let s := edge .t32 0#32
    s.params.haveCrc32 = true ∧ s.inItBlock = false ∧ s.params.cuSize64 = none ∧ s.params.cuCond = none ∧
    (withParams s false none none).params.haveCrc32 = false ∧ ({ s with inItBlock := true } : State).inItBlock = true ∧
    a1Edge.rd ≠ 15#4 ∧ a1Edge.rn ≠ 15#4 ∧ a1Edge.rm ≠ 15#4 ∧ t1Edge.rd ≠ 15#4 ∧ t1Edge.rn ≠ 15#4 ∧ t1Edge.rm ≠ 15#4 ∧
    ({ a1Edge with cond := 0b1101#4 } : A1Operands).cond ≠ 0b1110#4 ∧ ({ a1Edge with rn := 15#4 } : A1Operands).rn = 15#4 ∧
    ({ t1Edge with rn := 15#4 } : T1Operands).rn = 15#4 ∧ 0b10#2 ≠ 0b11#2 := by decide
/-- For ShouldBeZeroBitsAreRefused: each of the three bits, and each parameter of its last clauses. -/
theorem witness_ShouldBeZeroBits : let o : A1Operands := { a1Edge with sbz := 0b001#3 }
    (edge .a32 0#32).params.haveCrc32 = true ∧ o.cond = 0b1110#4 ∧ o.rd ≠ 15#4 ∧ o.rn ≠ 15#4 ∧ o.rm ≠ 15#4 ∧ o.sbz ≠ 0#3 ∧
    (0xE1010142#32).getLsbD 8 = true ∧ (0xE1010442#32).getLsbD 10 = true ∧ (0xE1010842#32).getLsbD 11 = true := by
  decide
theorem witness_ShouldBeZeroBits_params : ∀ c ch, let s := withParams (edge .a32 0#32) true c ch
    s.params.haveCrc32 = true ∧ s.params.cuSize64 = c ∧ s.params.cuCond = ch :=
  fun _ _ => ⟨rfl, rfl, rfl⟩

/-! ### The machine -/

/-- One word of text at `pc`, in each instruction set. -/
def loadedA32 : State := (edge .a32 0xFFFFFFF8#32).withFetchWord 32 0xE1010042
def loadedT32 : State := (edge .t32 0xFFFFFFFA#32).withFetchWord 32 0xFAC1F082

theorem witness_StepRunsTheDecodedInstruction :
    (pcAligned loadedA32 = true ∧
      (memRead loadedA32.mem loadedA32.pc.toNat 4).toOption = some [0x42#8, 0x00#8, 0x01#8, 0xE1#8] ∧
      decodeBytes loadedA32.iset [0x42#8, 0x00#8, 0x01#8, 0xE1#8] = .instr (.crc32bA1 a1)) ∧
    (pcAligned loadedT32 = true ∧
      (memRead loadedT32.mem loadedT32.pc.toNat 4).toOption = some [0xC1#8, 0xFA#8, 0x82#8, 0xF0#8] ∧
      decodeBytes loadedT32.iset [0xC1#8, 0xFA#8, 0x82#8, 0xF0#8] = .instr (.crc32bT1 t1)) := by decide +kernel
/-- The clauses about the `sz == 11` patterns and an undecoded pattern. -/
theorem witness_StepRunsTheDecodedInstruction_others :
    (let s := (edge .a32 0xFFFFFFF8#32).withFetchWord 32 0xE1610042
     pcAligned s = true ∧ (memRead s.mem s.pc.toNat 4).toOption = some [0x42#8, 0x00#8, 0x61#8, 0xE1#8] ∧
      decodeBytes s.iset [0x42#8, 0x00#8, 0x61#8, 0xE1#8] = .size64A1 a1) ∧
    (let s := (edge .t32 0xFFFFFFFA#32).withFetchWord 32 0xFAC1F0B2
     pcAligned s = true ∧ (memRead s.mem s.pc.toNat 4).toOption = some [0xC1#8, 0xFA#8, 0xB2#8, 0xF0#8] ∧
      decodeBytes s.iset [0xC1#8, 0xFA#8, 0xB2#8, 0xF0#8] = .size64T1 t1) ∧
    (let s := (edge .a32 0xFFFFFFF8#32).withFetchWord 32 0xF1010042
     pcAligned s = true ∧ (memRead s.mem s.pc.toNat 4).toOption = some [0x42#8, 0x00#8, 0x01#8, 0xF1#8] ∧
      decodeBytes s.iset [0x42#8, 0x00#8, 0x01#8, 0xF1#8] = .undecoded .condition1111) := by decide +kernel
theorem witness_PlacedInstructionRunsNext : (Instr.crc32wA1 a1Edge).wellFormed = true ∧
    (edge .a32 0xFFFFFFFC#32).pc.toNat % pcAlignment (Instr.crc32wA1 a1Edge).iset = 0 ∧
    (edge .a32 0xFFFFFFFC#32).pc.toNat + 4 ≤ 2 ^ 32 ∧ (Instr.crc32wT1 t1Edge).wellFormed = true ∧
    (edge .t32 0xFFFFFFFA#32).pc.toNat % pcAlignment (Instr.crc32wT1 t1Edge).iset = 0 := by decide
theorem legal_of_checks {s : State} (h : (Memory.wf s.mem && pcAligned s) = true) : s.Legal := by
  simpa [State.Legal] using h
/-- Also the witness of StepChangesOneRegisterAndPc. -/
theorem witness_StepKeepsTheStateLegal : loadedA32.Legal ∧ (∃ t, step loadedA32 = .next t) ∧
    loadedT32.Legal ∧ ∃ t, step loadedT32 = .next t :=
  ⟨legal_of_checks (by decide +kernel), next_of_regAndPc (i := 0) (by decide +kernel),
    legal_of_checks (by decide +kernel), next_of_regAndPc (i := 0) (by decide +kernel)⟩
theorem witness_RunsAreStraightLines : ∃ t, runSteps 1 loadedA32 = .next t :=
  next_of_regAndPc (i := 0) (by decide +kernel)
/-- For MisalignedAndWrappingPcAreRefused, both clauses. -/
theorem witness_MisalignedAndWrappingPc : pcAligned (edge .a32 2#32) = false ∧ pcAligned (edge .t32 1#32) = false ∧
    (Instr.crc32bA1 a1Edge).isDefined = true ∧ (edge .a32 0xFFFFFFFC#32).params.haveCrc32 = true ∧
    (edge .a32 0xFFFFFFFC#32).inItBlock = false ∧ 2 ^ 32 ≤ (edge .a32 0xFFFFFFFC#32).pc.toNat + 4 := by decide
theorem witness_FetchOutsideTheTextIsStuck :
    pcAligned (edge .t32 0xFFFFFFFE#32) = true ∧ (edge .t32 0xFFFFFFFE#32).Stuck :=
  ⟨by decide, ⟨⟨3, by decide, by decide⟩, by simp [State.Final, edge, launch, State.reset]⟩⟩
/-- The second clause of FetchOutsideTheTextIsStuck: a launch just past the text. -/
theorem witness_LaunchPastTheText : let s : State := { loadedA32 with pc := 0xFFFFFFFC#32 }
    pcAligned s = true ∧ s.completed = false ∧ textEnd s.mem = some s.pc.toNat := by decide +kernel
/-- A final state, and a step that reaches one. -/
theorem witness_RunIsOverAtTheEndOfTheText :
    ({ loadedA32 with pc := 0xFFFFFFFC#32, completed := true } : State).Final ∧ (∃ t, step loadedA32 = .next t) :=
  ⟨⟨by decide +kernel, by decide +kernel, by decide +kernel⟩, next_of_regAndPc (i := 0) (by decide +kernel)⟩
/-- A text of two words and its run; `j` is 1. -/
theorem witness_ProgramEndsAfterItsLastInstruction :
    let text := encodeBytes (.crc32bA1 a1) ++ encodeBytes (.crc32wA1 a1)
    let s : State := loadText (edge .a32 0xFFFFFFF4#32) 0xFFFFFFF4 text
    text.length = 4 * 2 ∧ s.mem = writeBytes [] s.pc.toNat text ∧ (∃ t, runSteps 2 s = .next t) ∧
      ∃ u, runSteps 1 s = .next u :=
  ⟨by decide, rfl, next_of_regAndPc (i := 0) (by decide +kernel), next_of_regAndPc (i := 0) (by decide +kernel)⟩

end Sys2Proof.Tests
end

section
/-! PROOFS. Scope and primitives (00_scope.md): operand sizes (R12), `BitReverse` (R17), `Poly32Mod2` as a polynomial
remainder (R18), and the completion of every defined instruction when the feature is present (R6, R39). -/

namespace Sys2Proof.Machine

open Polynomial (X)

/-! ### Operand sizes -/

theorem sizeOfSz_eq (sz : BitVec 2) : sizeOfSz sz = 8 * 2 ^ sz.toNat :=
  Nat.shiftLeft_eq 8 sz.toNat

/-- Settles O9: the shift is the product by a power of two, and the four sizes are its values. -/
theorem operandSizes : Obligations.OperandSizes :=
  ⟨sizeOfSz_eq, sizeOfSz_byte, sizeOfSz_half, sizeOfSz_word, sizeOfSz_reserved⟩

/-! ### `BitReverse` -/

theorem getLsbD_bitReverse {n : Nat} (x : BitVec n) {i : Nat} (h : i < n) :
    (bitReverse x).getLsbD i = x.getLsbD (n - 1 - i) := by
  rw [bitReverse, BitVec.getLsbD_reverse, BitVec.getMsbD_eq_getLsbD]
  simp [h]

@[simp] theorem bitReverse_bitReverse {n : Nat} (x : BitVec n) : bitReverse (bitReverse x) = x :=
  BitVec.reverse_reverse_eq

theorem bitReverse_xor {n : Nat} (x y : BitVec n) : bitReverse (x ^^^ y) = bitReverse x ^^^ bitReverse y := by
  apply BitVec.eq_of_getLsbD_eq
  intro i hi
  simp only [BitVec.getLsbD_xor, getLsbD_bitReverse _ hi]

/-- Settles O10, bit by bit: position `n-1-i` mirrors back to `i`. -/
theorem bitReverseReverses : Obligations.BitReverseReverses := by
  intro n x y
  refine ⟨fun i hi => ?_, bitReverse_bitReverse x, bitReverse_xor x y⟩
  rw [getLsbD_bitReverse x (by omega), show n - 1 - (n - 1 - i) = i by omega]

/-! ### Bitstrings as polynomials over the two-element field -/

theorem coeff_bitsPoly {n : Nat} (d : BitVec n) (k : Nat) :
    (bitsPoly d).coeff k = if d.getLsbD k then 1 else 0 := by
  have hterm : ∀ i, (if d.getLsbD i then (X : Polynomial (ZMod 2)) ^ i else 0).coeff k =
      if k = i then (if d.getLsbD i then 1 else 0) else 0 := by
    intro i
    cases d.getLsbD i <;> simp [Polynomial.coeff_X_pow]
  rw [bitsPoly, Polynomial.finsetSum_coeff]
  simp only [hterm, Finset.sum_ite_eq, Finset.mem_range]
  by_cases hk : k < n
  · rw [if_pos hk]
  · simp [hk, BitVec.getLsbD_of_ge d k (by omega)]

theorem degree_bitsPoly_lt {n : Nat} (d : BitVec n) : (bitsPoly d).degree < n := by
  rw [Polynomial.degree_lt_iff_coeff_zero]
  intro m hm
  simp [coeff_bitsPoly, BitVec.getLsbD_of_ge d m hm]

/-- Exclusive OR is addition of polynomials. -/
theorem bitsPoly_xor {n : Nat} (a b : BitVec n) : bitsPoly (a ^^^ b) = bitsPoly a + bitsPoly b := by
  ext k
  rw [Polynomial.coeff_add, coeff_bitsPoly, coeff_bitsPoly, coeff_bitsPoly, BitVec.getLsbD_xor]
  cases a.getLsbD k <;> cases b.getLsbD k <;> decide

/-- A left shift that loses no bit is multiplication by a power of `x`. -/
theorem bitsPoly_setWidth_shiftLeft {w n : Nat} (d : BitVec w) {k : Nat} (h : w + k ≤ n) :
    bitsPoly (d.setWidth n <<< k) = X ^ k * bitsPoly d := by
  ext m
  rw [Polynomial.coeff_X_pow_mul', coeff_bitsPoly, coeff_bitsPoly, BitVec.getLsbD_shiftLeft, BitVec.getLsbD_setWidth]
  by_cases hk : k ≤ m
  · by_cases hm : m < n
    · simp [hk, hm, Nat.not_lt.2 hk, show m - k < n by omega]
    · simp [hm, BitVec.getLsbD_of_ge d (m - k) (by omega)]
  · simp [hk, Nat.lt_of_not_le hk]

/-- The low `m + 1` bits are the low `m` bits and the leading term. -/
theorem bitsPoly_setWidth_succ {n : Nat} (d : BitVec n) (m : Nat) :
    bitsPoly (d.setWidth (m + 1)) = bitsPoly (d.setWidth m) + if d.getLsbD m then X ^ m else 0 := by
  have hbit : ∀ {w i : Nat}, i < w → (d.setWidth w).getLsbD i = d.getLsbD i := fun hi => by simp [hi]
  rw [bitsPoly, bitsPoly, Finset.sum_range_succ, hbit (Nat.lt_succ_self m)]
  congr 1
  refine Finset.sum_congr rfl fun i hi => ?_
  have him : i < m := Finset.mem_range.1 hi
  rw [hbit him, hbit (Nat.lt_succ_of_lt him)]

/-! ### `Poly32Mod2` -/

theorem monic_divisor (poly : Word) : (X ^ 32 + bitsPoly poly).Monic :=
  Polynomial.monic_X_pow_add (degree_bitsPoly_lt poly)

theorem degree_divisor (poly : Word) : (X ^ 32 + bitsPoly poly).degree = 32 := by
  rw [Polynomial.degree_add_eq_left_of_degree_lt] <;> rw [Polynomial.degree_X_pow]
  · rfl
  · exact degree_bitsPoly_lt poly

/-- One round of `Poly32Mod2` on a set bit `32 + k`: adding the divisor's low part below that bit and forgetting the bit is
adding `x^k` times the divisor, so the remainder stays. -/
theorem bitsPoly_xor_modByMonic {n : Nat} (data : BitVec n) (poly : Word) {k : Nat} (h : 32 + (k + 1) ≤ n)
    (hbit : data.getLsbD (32 + k) = true) :
    bitsPoly ((data ^^^ (poly.setWidth n <<< k)).setWidth (32 + k)) %ₘ (X ^ 32 + bitsPoly poly) =
      bitsPoly (data.setWidth (32 + (k + 1))) %ₘ (X ^ 32 + bitsPoly poly) := by
  have hshift : (poly.setWidth n <<< k).setWidth (32 + k) = poly.setWidth (32 + k) <<< k := by
    apply BitVec.eq_of_getLsbD_eq
    intro i hi
    simp [hi, show i < n by omega]
  have hadd : bitsPoly ((data ^^^ (poly.setWidth n <<< k)).setWidth (32 + k)) =
      bitsPoly (data.setWidth (32 + (k + 1))) + (X ^ 32 + bitsPoly poly) * X ^ k := by
    rw [BitVec.setWidth_xor, hshift, bitsPoly_xor, bitsPoly_setWidth_shiftLeft poly (Nat.le_refl _),
      ← Nat.add_assoc, bitsPoly_setWidth_succ, if_pos hbit]
    linear_combination -CharTwo.add_self_eq_zero (X ^ (32 + k) : Polynomial (ZMod 2))
  rw [hadd, Polynomial.add_modByMonic, Polynomial.self_mul_modByMonic (monic_divisor poly), add_zero]

/-- The loop from bit `32 + k - 1` down keeps the remainder of the low `32 + k` bits. The bits it has passed stay in the
bitstring as they are, so the invariant speaks of the bits below only. -/
theorem polyModLoop_modByMonic {n : Nat} (poly : Word) (k : Nat) (data : BitVec n) (h : 32 + k ≤ n) :
    bitsPoly ((polyModLoop poly k data).setWidth 32) %ₘ (X ^ 32 + bitsPoly poly) =
      bitsPoly (data.setWidth (32 + k)) %ₘ (X ^ 32 + bitsPoly poly) := by
  induction k generalizing data with
  | zero => rfl
  | succ k ih =>
    rw [polyModLoop, ih _ (by omega)]
    split
    · exact bitsPoly_xor_modByMonic data poly h ‹_›
    · rename_i hbit
      rw [← Nat.add_assoc, bitsPoly_setWidth_succ, if_neg hbit, add_zero]

/-- Settles O11: the result has degree below 32, and the loop keeps the remainder of the whole bitstring. -/
theorem poly32Mod2IsTheRemainder : Obligations.Poly32Mod2IsTheRemainder := by
  intro n data poly hn
  have hdeg : (bitsPoly (polyMod32 data poly)).degree < (X ^ 32 + bitsPoly poly).degree := by
    rw [degree_divisor]
    exact degree_bitsPoly_lt _
  calc bitsPoly (polyMod32 data poly)
      = bitsPoly (polyMod32 data poly) %ₘ (X ^ 32 + bitsPoly poly) :=
        ((Polynomial.modByMonic_eq_self_iff (monic_divisor poly)).2 hdeg).symm
    _ = bitsPoly (data.setWidth (32 + (n - 32))) %ₘ (X ^ 32 + bitsPoly poly) :=
        polyModLoop_modByMonic poly (n - 32) data (by omega)
    _ = bitsPoly data %ₘ (X ^ 32 + bitsPoly poly) := by
        rw [Nat.add_sub_cancel' (Nat.le_of_lt hn), BitVec.setWidth_eq]

/-! ### Completion of the defined instructions -/

theorem exists_regNums_iff {rd rn rm : RegField} :
    (∃ r, regNums rd rn rm = some r) ↔ rd ≠ 15#4 ∧ rn ≠ 15#4 ∧ rm ≠ 15#4 := by
  rw [← Option.ne_none_iff_exists', Ne, regNums_none, not_or, not_or]

theorem isDefined_A1_iff {o : A1Operands} :
    o.isDefined = true ↔
      o.cond = alwaysCondition ∧ o.sbz = 0#3 ∧ ∃ r, regNums o.rd o.rn o.rm = some r := by
  simp [exists_regNums_iff, A1Operands.isDefined, alwaysCondition, and_assoc]

theorem isDefined_T1_iff {o : T1Operands} :
    o.isDefined = true ↔ ∃ r, regNums o.rd o.rn o.rm = some r := by
  simp [exists_regNums_iff, T1Operands.isDefined, and_assoc]

theorem executeBlock_passed {c : Bool} {size : Nat} {r : RegNums} {s : State} (hp : s.pc.toNat + 4 < addressLimit) :
    executeBlock true c size r s =
      .next (completeAt (writeReg s r.d (crcExecute c size (readReg s r.n) (readReg s r.m)))) :=
  advancePc_eq hp

/-- Class A1 writes the CRC and completes once no test of its Decode block and no `(0)` bit stops it. -/
theorem runA1_completes {sz : BitVec 2} {o : A1Operands} {s : State} {r : RegNums} (hsz : sizeOfSz sz ≠ 64)
    (hcrc : s.params.haveCrc32 = true) (hcond : o.cond = alwaysCondition) (hsbz : o.sbz = 0#3)
    (hr : regNums o.rd o.rn o.rm = some r) (hp : s.pc.toNat + 4 < addressLimit) :
    runA1 sz o s =
      .next (completeAt (writeReg s r.d (crcExecute false (sizeOfSz sz) (readReg s r.n) (readReg s r.m)))) := by
  simp [runA1, hcrc, hr, resolveSize_proceed _ hsz, hcond, hsbz, executeBlock_passed hp]

/-- Class T1 writes the CRC and completes once no test of its Decode block stops it. -/
theorem runT1_completes {sz : BitVec 2} {o : T1Operands} {s : State} {r : RegNums} (hsz : sizeOfSz sz ≠ 64)
    (hit : s.inItBlock = false) (hcrc : s.params.haveCrc32 = true)
    (hr : regNums o.rd o.rn o.rm = some r) (hp : s.pc.toNat + 4 < addressLimit) :
    runT1 sz o s =
      .next (completeAt (writeReg s r.d (crcExecute false (sizeOfSz sz) (readReg s r.n) (readReg s r.m)))) := by
  simp [runT1, hit, hcrc, hr, resolveSize_proceed _ hsz, executeBlock_passed hp]

theorem runA1_completes_of_isDefined {sz : BitVec 2} {o : A1Operands} {s : State} (hsz : sizeOfSz sz ≠ 64)
    (hdef : o.isDefined = true) (hcrc : s.params.haveCrc32 = true) (hp : s.pc.toNat + 4 < addressLimit) :
    ∃ t, runA1 sz o s = .next t := by
  obtain ⟨hcond, hsbz, r, hr⟩ := isDefined_A1_iff.1 hdef
  exact ⟨_, runA1_completes hsz hcrc hcond hsbz hr hp⟩

theorem runT1_completes_of_isDefined {sz : BitVec 2} {o : T1Operands} {s : State} (hsz : sizeOfSz sz ≠ 64)
    (hdef : o.isDefined = true) (hit : s.inItBlock = false) (hcrc : s.params.haveCrc32 = true)
    (hp : s.pc.toNat + 4 < addressLimit) : ∃ t, runT1 sz o s = .next t := by
  obtain ⟨r, hr⟩ := isDefined_T1_iff.1 hdef
  exact ⟨_, runT1_completes hsz hit hcrc hr hp⟩

/-- With the feature, every defined instruction completes outside an IT block below the top of the address space. -/
theorem exec_completes_of_isDefined {i : Instr} {s : State} (hdef : i.isDefined = true) (hit : s.inItBlock = false)
    (hcrc : s.params.haveCrc32 = true) (hp : s.pc.toNat + 4 < addressLimit) : ∃ t, exec i s = .next t := by
  cases i with
  | crc32bA1 o => exact runA1_completes_of_isDefined (by decide) hdef hcrc hp
  | crc32hA1 o => exact runA1_completes_of_isDefined (by decide) hdef hcrc hp
  | crc32wA1 o => exact runA1_completes_of_isDefined (by decide) hdef hcrc hp
  | crc32bT1 o => exact runT1_completes_of_isDefined (by decide) hdef hit hcrc hp
  | crc32hT1 o => exact runT1_completes_of_isDefined (by decide) hdef hit hcrc hp
  | crc32wT1 o => exact runT1_completes_of_isDefined (by decide) hdef hit hcrc hp

/-- Settles O32: with the feature a defined instruction completes, and whatever completes had the feature. -/
theorem featureFieldIndicatesSupport : Obligations.FeatureFieldIndicatesSupport := by
  intro i s hdef hit hp
  constructor
  · intro hcrc
    exact exec_completes_of_isDefined hdef hit hcrc hp
  · rintro ⟨t, ht⟩
    obtain ⟨-, hcrc, -⟩ := exec_next ht
    exact hcrc

end Sys2Proof.Machine
end

section
/-! PROOFS. State (10_state.md): what a completed instruction leaves unchanged (R34, R44), the invariants of a step and of a
run (R33, R51, R54), what an instruction reads (R36, R44), and a launch inside an IT block (R37). -/

namespace Sys2Proof.Machine

open Sys2Proof.Config (ISet)

/-! ### The frame of a completed instruction -/

theorem State.SameControl.refl (s : State) : s.SameControl s :=
  ⟨rfl, rfl, rfl, rfl, rfl, rfl⟩

theorem State.SameControl.trans {s t u : State} (h : s.SameControl t) (h' : t.SameControl u) : s.SameControl u := by
  obtain ⟨hf, hd, hi, hk, hp, hm⟩ := h
  obtain ⟨hf', hd', hi', hk', hp', hm'⟩ := h'
  exact ⟨hf'.trans hf, hd'.trans hd, hi'.trans hi, hk'.trans hk, hp'.trans hp, hm'.trans hm⟩

theorem sameControl_completeAt (s : State) : s.SameControl (completeAt s) :=
  ⟨rfl, rfl, rfl, rfl, rfl, rfl⟩

theorem sameControl_writeReg (s : State) (i : Fin 15) (v : Word) : s.SameControl (writeReg s i v) :=
  ⟨rfl, rfl, rfl, rfl, rfl, rfl⟩

section Completes

variable {rd rn rm : RegField} {s t : State}

theorem Completes.sameControl (h : Completes rd rn rm s t) : s.SameControl t := by
  obtain ⟨-, -, r, -, rfl | ⟨size, rfl⟩⟩ := h
  · exact sameControl_completeAt s
  · exact (sameControl_writeReg s _ _).trans (sameControl_completeAt _)

theorem Completes.pc_toNat (h : Completes rd rn rm s t) : t.pc.toNat = s.pc.toNat + 4 := by
  obtain ⟨hp, -, r, -, rfl | ⟨size, rfl⟩⟩ := h
  all_goals exact add_four_toNat hp

theorem Completes.completed (h : Completes rd rn rm s t) : t.completed = true := by
  obtain ⟨-, -, r, -, rfl | ⟨size, rfl⟩⟩ := h
  all_goals rfl

/-- The one register that may differ is the one the field `Rd` numbers. -/
theorem Completes.x_other (h : Completes rd rn rm s t) :
    ∃ d : Fin 15, rd.toNat = d.val ∧ ∀ j : Fin 15, j ≠ d → t.x[j] = s.x[j] := by
  obtain ⟨-, -, r, hr, ht⟩ := h
  obtain ⟨hd, -, -⟩ := regNums_some.1 hr
  refine ⟨r.d, hd, fun j hj => ?_⟩
  obtain rfl | ⟨size, rfl⟩ := ht
  · rfl
  · exact readReg_writeReg_other s _ hj

end Completes

/-- Settles O25: an instruction that answers a next state completes, and completion changes `x[d]` and `pc` only. -/
theorem execChangesOnlyDestinationAndPc : Obligations.ExecChangesOnlyDestinationAndPc := by
  intro i s t h
  have hc := exec_next h
  obtain ⟨hnzcv, hdit, hit, hiset, hparams, hmem⟩ := hc.sameControl
  obtain ⟨d, hd, hx⟩ := hc.x_other
  refine ⟨fun j hj => hx j fun e => hj ?_, hnzcv, hdit, hit, hiset, hparams, hc.completed, fun a => ?_⟩
  · rw [e, hd]
  · rw [hmem]

/-! ### The invariants of a step and of a run -/

theorem step_completes {s t : State} (h : step s = .next t) : ∃ rd rn rm, Completes rd rn rm s t := by
  obtain ⟨-, bs, -, hd⟩ := runStep_next h
  exact runDecoded_next hd

/-- Settles O44: the frame of completion, for whatever the step has fetched. -/
theorem stepChangesOneRegisterAndPc : Obligations.StepChangesOneRegisterAndPc := by
  intro s t h
  obtain ⟨rd, rn, rm, hc⟩ := step_completes h
  obtain ⟨d, -, hx⟩ := hc.x_other
  exact ⟨hc.sameControl, hc.pc_toNat, hc.completed, d, hx⟩

/-- Both alignments divide the length of an instruction, so its advance keeps `pc` aligned (R33). -/
theorem pcAlignment_dvd_four (k : ISet) : pcAlignment k ∣ 4 := by
  cases k <;> decide

theorem pcAligned_iff {s : State} : pcAligned s = true ↔ pcAlignment s.iset ∣ s.pc.toNat := by
  rw [pcAligned, beq_iff_eq, Nat.dvd_iff_mod_eq_zero]

/-- Settles O42: the text is the same text, and `pc` has moved by a multiple of its alignment. -/
theorem stepKeepsTheStateLegal : Obligations.StepKeepsTheStateLegal := by
  intro s t hs h
  obtain ⟨hwf, hal⟩ := hs
  obtain ⟨⟨-, -, -, hiset, -, hmem⟩, hpc, -⟩ := stepChangesOneRegisterAndPc s t h
  have hal' : pcAlignment t.iset ∣ t.pc.toNat := by
    rw [hiset, hpc]
    exact Nat.dvd_add (pcAligned_iff.1 hal) (pcAlignment_dvd_four s.iset)
  exact ⟨hmem ▸ hwf, pcAligned_iff.2 hal'⟩

/-- A run of `k + 1` steps that completes is a completed step and a run of `k` steps from there. -/
theorem coreRun_succ_next {M : Host.Core} {k : Nat} {s t : M.State} (h : M.run (k + 1) s = .next t) :
    ∃ u, M.step s = .next u ∧ M.run k u = .next t := by
  rw [Host.Core.run] at h
  split at h
  · exact ⟨_, ‹_›, h⟩
  · cases h
  · cases h

theorem runSteps_succ_next {k : Nat} {s t : State} (h : runSteps (k + 1) s = .next t) :
    ∃ u, step s = .next u ∧ runSteps k u = .next t :=
  coreRun_succ_next (M := core) h

/-- Settles O45, by induction on the number of steps with the frame of one step. -/
theorem runsAreStraightLines : Obligations.RunsAreStraightLines := by
  intro k
  induction k with
  | zero =>
    intro s t h
    cases h
    exact ⟨rfl, State.SameControl.refl s⟩
  | succ k ih =>
    intro s t h
    obtain ⟨u, hstep, hrun⟩ := runSteps_succ_next h
    obtain ⟨hctl, hpc, -⟩ := stepChangesOneRegisterAndPc s u hstep
    obtain ⟨hpc', hctl'⟩ := ih u t hrun
    exact ⟨by omega, hctl.trans hctl'⟩

/-! ### The upper bits of the data register -/

/-- The CRC reads the low `size` bits of the value and no other (R103). -/
theorem crcExecute_congr_low (c : Bool) {size : Nat} (acc : Word) {v w : Word} (h : v.setWidth size = w.setWidth size) :
    crcExecute c size acc v = crcExecute c size acc w := by
  simp only [crcExecute, h]

/-- An encoding of T32 that completes was outside an IT block. -/
theorem exec_next_inItBlock {i : Instr} {s t : State} (h : exec i s = .next t) (hi : i.iset = .t32) :
    s.inItBlock = false := by
  cases i with
  | crc32bA1 o => cases hi
  | crc32hA1 o => cases hi
  | crc32wA1 o => cases hi
  | crc32bT1 o => exact (runT1_next h).1
  | crc32hT1 o => exact (runT1_next h).1
  | crc32wT1 o => exact (runT1_next h).1

theorem runA1_eq_of_isDefined {sz : BitVec 2} {o : A1Operands} {s : State} {r : RegNums} (hsz : sizeOfSz sz ≠ 64)
    (hdef : o.isDefined = true) (hcrc : s.params.haveCrc32 = true) (hr : regNums o.rd o.rn o.rm = some r)
    (hp : s.pc.toNat + 4 < addressLimit) :
    runA1 sz o s =
      .next (completeAt (writeReg s r.d (crcExecute false (sizeOfSz sz) (readReg s r.n) (readReg s r.m)))) := by
  obtain ⟨hcond, hsbz, -⟩ := isDefined_A1_iff.1 hdef
  exact runA1_completes hsz hcrc hcond hsbz hr hp

/-- What a defined instruction answers where it completes: it writes the CRC of its two sources, of its own size. -/
theorem exec_eq_of_isDefined {i : Instr} {s : State} {r : RegNums} (hdef : i.isDefined = true)
    (hr : regNums i.rdField i.rnField i.rmField = some r) (hit : i.iset = .t32 → s.inItBlock = false)
    (hcrc : s.params.haveCrc32 = true) (hp : s.pc.toNat + 4 < addressLimit) :
    exec i s =
      .next (completeAt
        (writeReg s r.d (crcExecute false (sizeOfSz i.szField) (readReg s r.n) (readReg s r.m)))) := by
  cases i with
  | crc32bA1 o => exact runA1_eq_of_isDefined (by decide) hdef hcrc hr hp
  | crc32hA1 o => exact runA1_eq_of_isDefined (by decide) hdef hcrc hr hp
  | crc32wA1 o => exact runA1_eq_of_isDefined (by decide) hdef hcrc hr hp
  | crc32bT1 o => exact runT1_completes (by decide) (hit rfl) hcrc hr hp
  | crc32hT1 o => exact runT1_completes (by decide) (hit rfl) hcrc hr hp
  | crc32wT1 o => exact runT1_completes (by decide) (hit rfl) hcrc hr hp

/-- Settles O26: both runs write the CRC of the same `x[n]` and of two values of `x[m]` with the same low bits. -/
theorem upperDataBitsAreIgnored : Obligations.UpperDataBitsAreIgnored := by
  intro i s t d n m v hdef hd hn hm hnm hlow h
  have hr : regNums i.rdField i.rnField i.rmField = some ⟨d, n, m⟩ := regNums_some.2 ⟨hd, hn, hm⟩
  obtain ⟨hp, hcrc, -⟩ := exec_next h
  have hit := exec_next_inItBlock h
  have hexec := exec_eq_of_isDefined hdef hr hit hcrc hp
  have hexec' := exec_eq_of_isDefined (s := writeReg s m v) hdef hr hit hcrc hp
  refine ⟨_, hexec', ?_⟩
  cases hexec.symm.trans h
  change readReg (completeAt _) d = readReg (completeAt _) d
  simp only [readReg_completeAt, readReg_writeReg_same, readReg_writeReg_other s v hnm]
  exact crcExecute_congr_low false _ hlow

/-! ### What an instruction reads -/

/-- The result with its next state, where it has one, sent through `g`; a fault or a refusal carries no state. -/
def mapNext (g : State → State) : Result → Result
  | .next t => .next (g t)
  | .fault r => .fault r
  | .refused q => .refused q

@[simp] theorem mapNext_next (g : State → State) (t : State) : mapNext g (.next t) = .next (g t) := rfl
@[simp] theorem mapNext_fault (g : State → State) (r : Fault) : mapNext g (.fault r) = .fault r := rfl
@[simp] theorem mapNext_refused (g : State → State) (q : Refusal) : mapNext g (.refused q) = .refused q := rfl

/-- `s'` holds the registers, `pc` and parameters of `s`, and completing from `s'` is completing from `s` followed by `g`:
the relation of two states that an A1 encoding cannot tell apart. -/
structure SameInputs (g : State → State) (s s' : State) : Prop where
  pc : s'.pc = s.pc
  params : s'.params = s.params
  read : ∀ i, readReg s' i = readReg s i
  complete : completeAt s' = g (completeAt s)
  completeWrite : ∀ i v, completeAt (writeReg s' i v) = g (completeAt (writeReg s i v))

section SameInputs

variable {g : State → State} {s s' : State}

theorem advancePc_mapNext (hpc : s'.pc = s.pc) (hc : completeAt s' = g (completeAt s)) :
    advancePc s' = mapNext g (advancePc s) := by
  unfold advancePc
  rw [hpc, hc]
  split
  · rfl
  · rfl

theorem SameInputs.advancePc_congr (h : SameInputs g s s') : advancePc s' = mapNext g (advancePc s) :=
  advancePc_mapNext h.pc h.complete

theorem SameInputs.raiseUndefined_congr (h : SameInputs g s s') (p : Word) :
    raiseUndefined p s' = mapNext g (raiseUndefined p s) := by
  simp [raiseUndefined_eq, h.pc]

theorem SameInputs.executeBlock_congr (h : SameInputs g s s') (passed c : Bool) (size : Nat) (r : RegNums) :
    executeBlock passed c size r s' = mapNext g (executeBlock passed c size r s) := by
  cases passed with
  | false => exact h.advancePc_congr
  | true =>
    simp only [executeBlock, if_true, h.read]
    exact advancePc_mapNext h.pc (h.completeWrite _ _)

theorem refuseShouldBeZero_mapNext {o : A1Operands} {n n' : Result} (h : n' = mapNext g n) :
    refuseShouldBeZero o n' = mapNext g (refuseShouldBeZero o n) := by
  unfold refuseShouldBeZero
  split
  · exact h
  · rfl

theorem SameInputs.resolve_congr (h : SameInputs g s s') {α : Type} (r : Resolution α) (p : Word) {n n' : Result}
    {k k' : α → Result} (hn : n' = mapNext g n) (hk : ∀ a, k' a = mapNext g (k a)) :
    resolve r p s' n' k' = mapNext g (resolve r p s n k) := by
  cases r with
  | proceed a => exact hk a
  | undefined => exact h.raiseUndefined_congr p
  | nop => exact hn
  | refuse q => rfl

theorem SameInputs.runA1_congr (h : SameInputs g s s') (sz : BitVec 2) (o : A1Operands) :
    runA1 sz o s' = mapNext g (runA1 sz o s) := by
  have hnop := refuseShouldBeZero_mapNext (o := o) h.advancePc_congr
  unfold runA1
  rw [h.params]
  split
  · cases regNums o.rd o.rn o.rm with
    | none => rfl
    | some r =>
      refine h.resolve_congr _ _ hnop fun size => ?_
      rw [resolveCond_flags _ _ s'.nzcv s.nzcv]
      exact h.resolve_congr _ _ hnop fun passed => refuseShouldBeZero_mapNext (h.executeBlock_congr ..)
  · exact h.raiseUndefined_congr _

/-- Class T1 reads the IT state beside what class A1 reads (R37). -/
theorem SameInputs.runT1_congr (h : SameInputs g s s') (hit : s'.inItBlock = s.inItBlock) (sz : BitVec 2)
    (o : T1Operands) : runT1 sz o s' = mapNext g (runT1 sz o s) := by
  unfold runT1
  rw [h.params, hit]
  split
  · rfl
  · split
    · cases regNums o.rd o.rn o.rm with
      | none => rfl
      | some r =>
        refine h.resolve_congr _ _ h.advancePc_congr fun size => ?_
        exact h.resolve_congr _ _ h.advancePc_congr fun passed => h.executeBlock_congr ..
    · exact h.raiseUndefined_congr _

/-- All that an instruction reads: registers, `pc`, parameters and, in T32, the IT state. -/
theorem SameInputs.exec_congr (h : SameInputs g s s') {i : Instr} (hit : i.iset = .t32 → s'.inItBlock = s.inItBlock) :
    exec i s' = mapNext g (exec i s) := by
  cases i with
  | crc32bA1 o => exact h.runA1_congr _ o
  | crc32hA1 o => exact h.runA1_congr _ o
  | crc32wA1 o => exact h.runA1_congr _ o
  | crc32bT1 o => exact h.runT1_congr (hit rfl) _ o
  | crc32hT1 o => exact h.runT1_congr (hit rfl) _ o
  | crc32wT1 o => exact h.runT1_congr (hit rfl) _ o

end SameInputs

/-- Flags, CPSR.DIT, selector, text and the record of a completed instruction are no input. Completion sets the record, so
the next states agree in it. -/
theorem sameInputs_unread (s : State) (f : NZCV) (b c : Bool) (k : ISet) (text : Memory) :
    SameInputs (fun t => { t with nzcv := f, dit := b, iset := k, mem := text }) s
      { s with nzcv := f, dit := b, iset := k, mem := text, completed := c } where
  pc := rfl
  params := rfl
  read _ := rfl
  complete := rfl
  completeWrite _ _ := rfl

/-- Settles O27: the changed fields are no input of an instruction, in any of its three outcomes. -/
theorem flagsAndDitDoNotInfluence : Obligations.FlagsAndDitDoNotInfluence := by
  intro i s f b c k text
  have hexec := (sameInputs_unread s f b c k text).exec_congr (i := i) fun _ => rfl
  refine ⟨fun t h => ?_, fun r h => ?_, fun r h => ?_⟩
  · rw [hexec, h, mapNext_next]
  · rw [hexec, h, mapNext_fault]
  · rw [hexec, h, mapNext_refused]

/-! ### A launch inside an IT block -/

/-- Whatever its `sz`, a pattern of class T1 has the meaning its fields have there. -/
theorem runDecoded_selectT1 (sz : BitVec 2) (o : T1Operands) (s : State) :
    runDecoded (selectT1 sz o) s = runT1 sz o s := by
  unfold selectT1
  split_ifs with hb hh hw
  · rw [hb]; rfl
  · rw [hh]; rfl
  · rw [hw]; rfl
  · have hsz : sz = 0b11#2 := by bv_omega
    rw [hsz]; rfl

/-- In T32 only a pattern of class T1 answers a next state, and it does so outside an IT block. -/
theorem runDecoded_t32_next {bs : List Byte} {s t : State} (h : runDecoded (decodeBytes .t32 bs) s = .next t) :
    s.inItBlock = false := by
  unfold decodeBytes at h
  split at h
  · simp only [decode] at h
    split at h
    · rw [runDecoded_selectT1] at h
      exact (runT1_next h).1
    · cases h
  · cases h

/-- Settles O35: a step that completes in T32 ran a pattern of class T1, which an IT block refuses. -/
theorem nothingCompletesInAnItBlock : Obligations.NothingCompletesInAnItBlock := by
  intro s t hiset hit h
  obtain ⟨-, bs, -, hd⟩ := runStep_next h
  rw [hiset] at hd
  have hout := runDecoded_t32_next hd
  rw [hit] at hout
  cases hout

end Sys2Proof.Machine
end

section
/-! PROOFS. Program text (20_memory.md): the byte order of a pattern (R52), the words of the encoder read back (R66, R72), the
step as fetch and meaning (R52, R53), an instruction placed at `pc`, and where a step stops (R51, R53). -/

namespace Sys2Proof

open Sys2Proof.Config (ISet)

/-! ### The byte order of a pattern -/

theorem patternOfBytes_a32 (b0 b1 b2 b3 : Byte) : patternOfBytes .a32 b0 b1 b2 b3 = b3 ++ b2 ++ b1 ++ b0 := rfl

theorem patternOfBytes_t32 (b0 b1 b2 b3 : Byte) : patternOfBytes .t32 b0 b1 b2 b3 = (b1 ++ b0) ++ (b3 ++ b2) := rfl

/-- Settles O8: a field above the low part of a concatenation is a field of the high part. -/
theorem fetchedPatternByteOrder : Obligations.FetchedPatternByteOrder := by
  intro b0 b1 b2 b3
  rw [patternOfBytes_a32, patternOfBytes_t32]
  refine ⟨⟨?byte0, ?byte1, ?byte2, ?byte3⟩, ?first, ?second⟩
  case byte0 => exact BitVec.extractLsb'_append_eq_right
  case byte1 =>
    rw [BitVec.extractLsb'_append_eq_of_le (by decide)]
    exact BitVec.extractLsb'_append_eq_right
  case byte2 =>
    rw [BitVec.extractLsb'_append_eq_of_le (by decide), BitVec.extractLsb'_append_eq_of_le (by decide)]
    exact BitVec.extractLsb'_append_eq_right
  case byte3 =>
    rw [BitVec.extractLsb'_append_eq_of_le (by decide), BitVec.extractLsb'_append_eq_of_le (by decide)]
    exact BitVec.extractLsb'_append_eq_left
  case first => exact BitVec.extractLsb'_append_eq_left
  case second => exact BitVec.extractLsb'_append_eq_right

@[simp] theorem length_bytesOfPattern (iset : ISet) (w : Word) : (bytesOfPattern iset w).length = 4 := by
  cases iset <;> rfl

/-- Decoding the bytes of a pattern decodes the pattern, as adjacent fields join to the whole word. -/
theorem decodeBytes_bytesOfPattern (iset : ISet) (w : Word) :
    decodeBytes iset (bytesOfPattern iset w) = decode iset w := by
  have join {k l m n : Nat} (h : m = k + l) : w.extractLsb' m n ++ w.extractLsb' k l = w.extractLsb' k (n + l) :=
    BitVec.extractLsb'_append_extractLsb'_eq_extractLsb' h
  cases iset with
  | a32 =>
    rw [bytesOfPattern, decodeBytes, patternOfBytes_a32, join (show 24 = 16 + 8 from rfl),
      join (show 16 = 8 + 8 from rfl), join (show 8 = 0 + 8 from rfl)]
    exact congrArg _ BitVec.extractLsb'_eq_self
  | t32 =>
    rw [bytesOfPattern, decodeBytes, patternOfBytes_t32, join (show 24 = 16 + 8 from rfl),
      join (show 8 = 0 + 8 from rfl), join (show 16 = 0 + (8 + 8) from rfl)]
    exact congrArg _ BitVec.extractLsb'_eq_self

/-! ### The words of the encoder read back -/

/-- A field of a word is known by its bits. -/
theorem extractLsb'_eq_of_bits {w : Word} {k n : Nat} {f : BitVec n}
    (h : ∀ i, i < n → w.getLsbD (k + i) = f.getLsbD i) : w.extractLsb' k n = f := by
  apply BitVec.eq_of_getLsbD_eq
  intro i hi
  rw [BitVec.getLsbD_extractLsb', decide_eq_true hi, Bool.true_and, h i hi]

theorem szA1_encodeA1 (sz : BitVec 2) (o : A1Operands) : szA1 (encodeA1 sz o) = sz := by
  refine extractLsb'_eq_of_bits fun i hi => ?_
  rw [getLsbD_encodeA1 sz o (by omega)]
  interval_cases i <;> rfl

/-- The `(0)` bits 11, 10 and 8 are two fields of the word, with the fixed bit 9 between them (R66, R71). -/
theorem sbz_encodeA1 (sz : BitVec 2) (o : A1Operands) :
    (encodeA1 sz o).extractLsb' 10 2 ++ (encodeA1 sz o).extractLsb' 8 1 = o.sbz := by
  have hhigh : (encodeA1 sz o).extractLsb' 10 2 = o.sbz.extractLsb' 1 2 := by
    refine extractLsb'_eq_of_bits fun i hi => ?_
    rw [getLsbD_encodeA1 sz o (by omega)]
    interval_cases i <;> simp
  have hlow : (encodeA1 sz o).extractLsb' 8 1 = o.sbz.extractLsb' 0 1 := by
    refine extractLsb'_eq_of_bits fun i hi => ?_
    rw [getLsbD_encodeA1 sz o (by omega)]
    interval_cases i
    simp
  rw [hhigh, hlow]
  exact BitVec.extractLsb'_append_extractLsb'

theorem fieldsA1_encodeA1 (sz : BitVec 2) (o : A1Operands) : fieldsA1 (encodeA1 sz o) = o := by
  obtain ⟨cond, rn, rd, sbz, rm⟩ := o
  rw [fieldsA1, sbz_encodeA1, A1Operands.mk.injEq]
  refine ⟨?_, ?_, ?_, rfl, ?_⟩
  all_goals
    refine extractLsb'_eq_of_bits fun i hi => ?_
    rw [getLsbD_encodeA1 _ _ (by omega)]
    interval_cases i <;> rfl

theorem szT1_encodeT1 (sz : BitVec 2) (o : T1Operands) : szT1 (encodeT1 sz o) = sz := by
  refine extractLsb'_eq_of_bits fun i hi => ?_
  rw [getLsbD_encodeT1 sz o (by omega)]
  interval_cases i <;> rfl

theorem fieldsT1_encodeT1 (sz : BitVec 2) (o : T1Operands) : fieldsT1 (encodeT1 sz o) = o := by
  obtain ⟨rn, rd, rm⟩ := o
  rw [fieldsT1, T1Operands.mk.injEq]
  refine ⟨?_, ?_, ?_⟩
  all_goals
    refine extractLsb'_eq_of_bits fun i hi => ?_
    rw [getLsbD_encodeT1 _ _ (by omega)]
    interval_cases i <;> rfl

/-- The class mask is the encodings' mask without the field `sz`. -/
theorem inClassA1_encodeA1 (sz : BitVec 2) (o : A1Operands) : inClassA1 (encodeA1 sz o) = true := by
  have hmask : 0x0F9002F0#32 = 0x0FF002F0#32 &&& 0x0F9002F0#32 := by decide
  rw [inClassA1, hmask, ← BitVec.and_assoc, Laws.rowBits_A1]
  revert sz
  decide

theorem inClassT1_encodeT1 (sz : BitVec 2) (o : T1Operands) : inClassT1 (encodeT1 sz o) = true := by
  have hmask : 0xFFF0F0C0#32 = 0xFFF0F0F0#32 &&& 0xFFF0F0C0#32 := by decide
  rw [inClassT1, hmask, ← BitVec.and_assoc, Laws.rowBits_T1]
  revert sz
  decide

/-- Bit 27 is clear in every A1 word and set in every pattern of class T1. -/
theorem inClassT1_encodeA1 (sz : BitVec 2) (o : A1Operands) : inClassT1 (encodeA1 sz o) = false := by
  refine decide_eq_false fun h => ?_
  have hbit : (encodeA1 sz o &&& 0xFFF0F0C0#32).getLsbD 27 = (0xFAC0F080#32).getLsbD 27 := by rw [h]
  rw [BitVec.getLsbD_and, getLsbD_encodeA1 sz o (by decide)] at hbit
  simp at hbit

theorem decode_encodeA1 (sz : BitVec 2) {o : A1Operands} (hwf : o.wellFormed = true) :
    decode .a32 (encodeA1 sz o) = selectA1 sz o := by
  have hcond : (encodeA1 sz o).extractLsb' 28 4 = o.cond := congrArg A1Operands.cond (fieldsA1_encodeA1 sz o)
  have hne : o.cond ≠ 0b1111#4 := by simpa [A1Operands.wellFormed] using hwf
  simp only [decode, inClassA1_encodeA1, if_true, hcond, if_neg hne, szA1_encodeA1, fieldsA1_encodeA1]

theorem decode_encodeT1 (sz : BitVec 2) (o : T1Operands) : decode .t32 (encodeT1 sz o) = selectT1 sz o := by
  simp only [decode, inClassT1_encodeT1, if_true, szT1_encodeT1, fieldsT1_encodeT1]

/-- The decoder reads an encoded instruction back (R75, R76). -/
theorem decode_encode {i : Instr} (hwf : i.wellFormed = true) : decode i.iset (encode i) = .instr i := by
  cases i with
  | crc32bA1 o => exact decode_encodeA1 0b00#2 hwf
  | crc32hA1 o => exact decode_encodeA1 0b01#2 hwf
  | crc32wA1 o => exact decode_encodeA1 0b10#2 hwf
  | crc32bT1 o => exact decode_encodeT1 0b00#2 o
  | crc32hT1 o => exact decode_encodeT1 0b01#2 o
  | crc32wT1 o => exact decode_encodeT1 0b10#2 o

theorem tablePattern_toNat (w : Word) : tablePattern 32 w.toNat = w := by
  rw [tablePattern, Nat.mod_eq_of_lt w.isLt, BitVec.ofNat_toNat, BitVec.setWidth_eq]

/-- The selector taken for a table word is the instruction set the encoding belongs to (log 28). -/
theorem tableISet_encode (i : Instr) : tableISet 32 (encode i).toNat = i.iset := by
  rw [tableISet, tablePattern_toNat]
  cases i with
  | crc32bA1 o => exact if_neg (Bool.eq_false_iff.1 (inClassT1_encodeA1 _ o))
  | crc32hA1 o => exact if_neg (Bool.eq_false_iff.1 (inClassT1_encodeA1 _ o))
  | crc32wA1 o => exact if_neg (Bool.eq_false_iff.1 (inClassT1_encodeA1 _ o))
  | crc32bT1 o => exact if_pos (inClassT1_encodeT1 _ o)
  | crc32hT1 o => exact if_pos (inClassT1_encodeT1 _ o)
  | crc32wT1 o => exact if_pos (inClassT1_encodeT1 _ o)

end Sys2Proof

namespace Sys2Proof.Machine

/-! ### The step as fetch and meaning -/

theorem fetch_of_memRead {s : State} {bs : List Byte} (h : memRead s.mem s.pc.toNat 4 = .ok bs) : fetch s = .ok bs := by
  rw [fetch, h]

/-- Where the text covers the instruction, a step is the meaning of its bytes, with nothing around it. -/
theorem step_eq_runDecoded {s : State} {bs : List Byte} (hal : pcAligned s = true)
    (hread : memRead s.mem s.pc.toNat 4 = .ok bs) : step s = runDecoded (decodeBytes s.iset bs) s := by
  rw [step, runStep, if_pos hal, fetch_of_memRead hread]

theorem step_eq_fault {s : State} {f : Fault} (hal : pcAligned s = true) (h : fetch s = .error f) :
    step s = .fault f := by
  rw [step, runStep, if_pos hal, h]

theorem step_misaligned {s : State} (h : pcAligned s = false) : step s = .refused .misalignedPc := by
  rw [step, runStep, h]
  rfl

/-- Settles O40: `runDecoded` sends each outcome of the decoder to its meaning. -/
theorem stepRunsTheDecodedInstruction : Obligations.StepRunsTheDecodedInstruction := by
  intro s bs hal hread
  rw [step_eq_runDecoded hal hread]
  refine ⟨fun i h => ?_, fun o h => ?_, fun o h => ?_, fun why h => ?_⟩
  all_goals rw [h]; rfl

/-! ### An instruction placed at `pc` -/

theorem withFetchWord_encode (s : State) (i : Instr) :
    s.withFetchWord 32 (encode i).toNat = loadText (s.setISet i.iset) s.pc.toNat (encodeBytes i) := by
  rw [State.withFetchWord, placeTableWord, tableISet_encode, tablePattern_toNat, encodeBytes]

theorem memRead_loadText (s : State) {a : Nat} {bs : List Byte} (h : a + bs.length ≤ addressLimit) :
    memRead (loadText s a bs).mem a bs.length = .ok bs :=
  memRead_writeBytes_same bs s.mem h

theorem readByte_loadText_outside (s : State) {a b : Nat} {bs : List Byte} (h : b < a ∨ a + bs.length ≤ b) :
    readByte (loadText s a bs).mem b = readByte s.mem b := by
  obtain hb | hb := h
  · exact readByte_writeBytes_below bs s.mem hb
  · exact readByte_writeBytes_above bs s.mem hb

/-- Settles O41: the four bytes placed are read back and decode to the instruction; the other bytes are not touched. -/
theorem placedInstructionRunsNext : Obligations.PlacedInstructionRunsNext := by
  intro i s hwf hal hpc
  have hlen : (encodeBytes i).length = 4 := length_bytesOfPattern i.iset (encode i)
  have hdec : decodeBytes i.iset (encodeBytes i) = .instr i :=
    (decodeBytes_bytesOfPattern i.iset (encode i)).trans (decode_encode hwf)
  rw [withFetchWord_encode]
  refine ⟨?_, rfl, rfl, rfl, rfl, rfl, rfl, rfl, rfl, fun a ha => ?_⟩
  · have hread := memRead_loadText (s.setISet i.iset) (a := s.pc.toNat) (bs := encodeBytes i) (hlen ▸ hpc)
    rw [hlen] at hread
    obtain ⟨hinstr, -⟩ := stepRunsTheDecodedInstruction _ (encodeBytes i) (beq_iff_eq.2 hal) hread
    exact hinstr i hdec
  · exact readByte_loadText_outside _ (hlen.symm ▸ ha)

/-! ### A fetch the text does not cover -/

theorem not_atRunEnd_of_not_final {s : State} (hal : pcAligned s = true) (h : ¬ s.Final) : atRunEnd s ≠ true := by
  intro hend
  obtain ⟨hdone, htext⟩ := atRunEnd_iff.1 hend
  exact h ⟨hdone, hal, htext⟩

/-- A byte the text does not hold makes a fetch that needs it stop. -/
theorem fetch_error_of_uncovered {s : State} {k : Nat} (hk : k < 4) (h : readByte s.mem (s.pc.toNat + k) = none) :
    ∃ f, fetch s = .error f := by
  cases hf : fetch s with
  | error f => exact ⟨f, rfl⟩
  | ok bs =>
    obtain ⟨hlen, hbytes⟩ := memRead_ok (fetch_ok hf)
    have hsome := hbytes k (by omega)
    rw [h] at hsome
    cases hsome

theorem step_of_stuck {s : State} (hal : pcAligned s = true) (h : s.Stuck) :
    ∃ a, s.pc.toNat ≤ a ∧ a < s.pc.toNat + 4 ∧ readByte s.mem a = none ∧ step s = .fault (.fetchOutsideText a) := by
  obtain ⟨⟨k, hk, hnone⟩, hfin⟩ := h
  obtain ⟨f, hf⟩ := fetch_error_of_uncovered hk hnone
  obtain ⟨-, hend⟩ | ⟨-, a, rfl, hlo, hhi, ha⟩ := fetch_error hf
  · exact absurd hend (not_atRunEnd_of_not_final hal hfin)
  · exact ⟨a, hlo, hhi, ha, step_eq_fault hal hf⟩

/-- Where the text does not hold the byte at `pc` itself, the fetch stops there. -/
theorem fetch_uncovered_pc {s : State} (hend : atRunEnd s = false) (h : readByte s.mem s.pc.toNat = none) :
    fetch s = .error (.fetchOutsideText s.pc.toNat) := by
  simp [fetch, memRead, h, hend]

/-- Settles O47: a stuck state is at the end of no run, so the fetch names the byte that is missing; at a launch just past
the text that byte is the first one. -/
theorem fetchOutsideTheTextIsStuck : Obligations.FetchOutsideTheTextIsStuck := by
  refine ⟨fun s => step_of_stuck, fun s hal hlaunch htext => ?_⟩
  have hnone : readByte s.mem s.pc.toNat = none := readByte_textEnd htext
  have hfin : ¬ s.Final := fun ⟨hdone, _⟩ => by simp [hlaunch] at hdone
  have hend : atRunEnd s = false := Bool.eq_false_iff.2 (not_atRunEnd_of_not_final hal hfin)
  exact ⟨⟨⟨0, by decide, hnone⟩, hfin⟩, step_eq_fault hal (fetch_uncovered_pc hend hnone)⟩

/-! ### A `pc` that is misaligned or wraps -/

theorem advancePc_wrap {s : State} (h : addressLimit ≤ s.pc.toNat + 4) : advancePc s = .refused .pcWrap := by
  rw [advancePc, if_neg (Nat.not_lt.2 h)]

/-- The write of the destination does not move `pc`, so a wrap is refused whether or not the condition passed. -/
theorem executeBlock_wrap {passed c : Bool} {size : Nat} {r : RegNums} {s : State}
    (h : addressLimit ≤ s.pc.toNat + 4) : executeBlock passed c size r s = .refused .pcWrap := by
  cases passed with
  | false => exact advancePc_wrap h
  | true => exact advancePc_wrap h

theorem runA1_wrap {sz : BitVec 2} {o : A1Operands} {s : State} (hsz : sizeOfSz sz ≠ 64) (hdef : o.isDefined = true)
    (hcrc : s.params.haveCrc32 = true) (hp : addressLimit ≤ s.pc.toNat + 4) : runA1 sz o s = .refused .pcWrap := by
  obtain ⟨hcond, hsbz, r, hr⟩ := isDefined_A1_iff.1 hdef
  simp [runA1, hcrc, hr, resolveSize_proceed _ hsz, hcond, hsbz, executeBlock_wrap hp]

theorem runT1_wrap {sz : BitVec 2} {o : T1Operands} {s : State} (hsz : sizeOfSz sz ≠ 64) (hdef : o.isDefined = true)
    (hcrc : s.params.haveCrc32 = true) (hit : s.inItBlock = false) (hp : addressLimit ≤ s.pc.toNat + 4) :
    runT1 sz o s = .refused .pcWrap := by
  obtain ⟨r, hr⟩ := isDefined_T1_iff.1 hdef
  simp [runT1, hit, hcrc, hr, resolveSize_proceed _ hsz, executeBlock_wrap hp]

/-- Settles O46: alignment is tested before the fetch, and a defined instruction reaches the advance that refuses the
wrap. -/
theorem misalignedAndWrappingPcAreRefused : Obligations.MisalignedAndWrappingPcAreRefused := by
  refine ⟨fun s => step_misaligned, fun i s hdef hcrc hit hp => ?_⟩
  cases i with
  | crc32bA1 o => exact runA1_wrap (by decide) hdef hcrc hp
  | crc32hA1 o => exact runA1_wrap (by decide) hdef hcrc hp
  | crc32wA1 o => exact runA1_wrap (by decide) hdef hcrc hp
  | crc32bT1 o => exact runT1_wrap (by decide) hdef hcrc hit hp
  | crc32hT1 o => exact runT1_wrap (by decide) hdef hcrc hit hp
  | crc32wT1 o => exact runT1_wrap (by decide) hdef hcrc hit hp

end Sys2Proof.Machine
end

section
/-! PROOFS. Encoding (30_encoding.md): what the decoder answers on each pattern (R67, R70, R73, R77), decoder and encoder as
each other's inverse (R66, R72, R75, R76), the words of the assembler (R81, R84), and the `(0)` bits (R71). -/

namespace Sys2Proof

open Sys2Proof.Config (ISet)
open Sys2Proof.Laws (rowBits_A1 rowBits_T1)

/-! ### What the decoder answers -/

theorem decode_a32_outside {w : Word} (h : inClassA1 w = false) : decode .a32 w = .undecoded .outsideClassA1 := by
  simp [decode, h]

theorem decode_a32_condition1111 {w : Word} (h : inClassA1 w = true) (hcond : w.extractLsb' 28 4 = 0b1111#4) :
    decode .a32 w = .undecoded .condition1111 := by
  simp only [decode, h, if_true, if_pos hcond]

theorem decode_a32_inClass {w : Word} (h : inClassA1 w = true) (hcond : w.extractLsb' 28 4 ≠ 0b1111#4) :
    decode .a32 w = selectA1 (szA1 w) (fieldsA1 w) := by
  simp only [decode, h, if_true, if_neg hcond]

theorem decode_t32_outside {w : Word} (h : inClassT1 w = false) : decode .t32 w = .undecoded .outsideClassT1 := by
  simp [decode, h]

theorem decode_t32_inClass {w : Word} (h : inClassT1 w = true) : decode .t32 w = selectT1 (szT1 w) (fieldsT1 w) := by
  simp only [decode, h, if_true]

theorem sz_cases (sz : BitVec 2) : sz = 0b00#2 ∨ sz = 0b01#2 ∨ sz = 0b10#2 ∨ sz = 0b11#2 := by
  revert sz
  decide

/-- An instruction selected by `sz` is of the class's instruction set and has the word of that `sz` and those fields. -/
theorem selectA1_instr {sz : BitVec 2} {o : A1Operands} {i : Instr} (h : selectA1 sz o = .instr i) :
    i.iset = .a32 ∧ i.wellFormed = o.wellFormed ∧ encode i = encodeA1 sz o := by
  obtain rfl | rfl | rfl | rfl := sz_cases sz
  all_goals cases h
  all_goals exact ⟨rfl, rfl, rfl⟩

theorem selectT1_instr {sz : BitVec 2} {o : T1Operands} {i : Instr} (h : selectT1 sz o = .instr i) :
    i.iset = .t32 ∧ i.wellFormed = true ∧ encode i = encodeT1 sz o := by
  obtain rfl | rfl | rfl | rfl := sz_cases sz
  all_goals cases h
  all_goals exact ⟨rfl, rfl, rfl⟩

/-- A word that decodes to an instruction passes the tests of its class. -/
theorem decode_a32_instr {w : Word} {i : Instr} (h : decode .a32 w = .instr i) :
    inClassA1 w = true ∧ w.extractLsb' 28 4 ≠ 0b1111#4 ∧ selectA1 (szA1 w) (fieldsA1 w) = .instr i := by
  simp only [decode] at h
  split_ifs at h with hclass hcond
  exact ⟨hclass, hcond, h⟩

theorem decode_t32_instr {w : Word} {i : Instr} (h : decode .t32 w = .instr i) :
    inClassT1 w = true ∧ selectT1 (szT1 w) (fieldsT1 w) = .instr i := by
  simp only [decode] at h
  split_ifs at h with hclass
  exact ⟨hclass, h⟩

/-! ### A pattern of a class is the encoding of its fields -/

/-- Where the mask has a bit, a word that matches has the match value's bit. -/
theorem getLsbD_of_and_eq {w mask mtch : Word} (h : w &&& mask = mtch) {k : Nat} (hk : mask.getLsbD k = true) :
    w.getLsbD k = mtch.getLsbD k := by
  rw [← h, BitVec.getLsbD_and, hk, Bool.and_true]

theorem inClassA1_iff {w : Word} : inClassA1 w = true ↔ w &&& 0x0F9002F0#32 = 0x01000040#32 :=
  decide_eq_true_iff

theorem inClassT1_iff {w : Word} : inClassT1 w = true ↔ w &&& 0xFFF0F0C0#32 = 0xFAC0F080#32 :=
  decide_eq_true_iff

@[simp] theorem fieldsA1_cond (w : Word) : (fieldsA1 w).cond = w.extractLsb' 28 4 := rfl
@[simp] theorem fieldsA1_rn (w : Word) : (fieldsA1 w).rn = w.extractLsb' 16 4 := rfl
@[simp] theorem fieldsA1_rd (w : Word) : (fieldsA1 w).rd = w.extractLsb' 12 4 := rfl
@[simp] theorem fieldsA1_rm (w : Word) : (fieldsA1 w).rm = w.extractLsb' 0 4 := rfl

/-- The `(0)` bits from the least significant: bits 8, 10 and 11, as bit 9 is `C` (R66). -/
theorem getLsbD_sbz_fieldsA1 (w : Word) {k : Nat} (hk : k < 3) :
    (fieldsA1 w).sbz.getLsbD k = if k < 1 then w.getLsbD 8 else w.getLsbD (k + 9) := by
  have happend : (fieldsA1 w).sbz.getLsbD k =
      if k < 1 then (w.extractLsb' 8 1).getLsbD k else (w.extractLsb' 10 2).getLsbD (k - 1) := BitVec.getLsbD_append
  rw [happend]
  interval_cases k <;> simp

/-- The bits in the class mask agree as both words are in the class; the others are bits of `sz` or of an operand field. -/
theorem encodeA1_fieldsA1 {w : Word} (h : inClassA1 w = true) : encodeA1 (szA1 w) (fieldsA1 w) = w := by
  apply BitVec.eq_of_getLsbD_eq
  intro k hk
  cases hm : (0x0F9002F0#32).getLsbD k with
  | true =>
    rw [getLsbD_of_and_eq (inClassA1_iff.1 h) hm,
      getLsbD_of_and_eq (inClassA1_iff.1 (inClassA1_encodeA1 _ _)) hm]
  | false =>
    rw [getLsbD_encodeA1 _ _ hk]
    interval_cases k <;> simp [szA1, -BitVec.getLsbD_eq_getElem, getLsbD_sbz_fieldsA1] at hm ⊢

theorem encodeT1_fieldsT1 {w : Word} (h : inClassT1 w = true) : encodeT1 (szT1 w) (fieldsT1 w) = w := by
  apply BitVec.eq_of_getLsbD_eq
  intro k hk
  cases hm : (0xFFF0F0C0#32).getLsbD k with
  | true =>
    rw [getLsbD_of_and_eq (inClassT1_iff.1 h) hm,
      getLsbD_of_and_eq (inClassT1_iff.1 (inClassT1_encodeT1 _ _)) hm]
  | false =>
    rw [getLsbD_encodeT1 _ _ hk]
    interval_cases k <;> simp [szT1, fieldsT1] at hm ⊢

/-! ### Decoder and encoder are each other's inverse -/

theorem wellFormed_A1_iff {o : A1Operands} : o.wellFormed = true ↔ o.cond ≠ 0b1111#4 :=
  bne_iff_ne

/-- Settles O1: the bytes join to the word again, and the word decodes to the instruction. -/
theorem decodeBytesOfEncodeBytes : Obligations.DecodeBytesOfEncodeBytes := by
  intro i hwf
  calc decodeBytes i.iset (encodeBytes i)
    _ = decode i.iset (encode i) := decodeBytes_bytesOfPattern i.iset (encode i)
    _ = .instr i := decode_encode hwf

/-- Settles O2: the word is in its class, so it is the encoding of its fields, and `sz` selects the instruction they are
the fields of. -/
theorem encodeOfDecodedInstr : Obligations.EncodeOfDecodedInstr := by
  intro iset w i h
  cases iset with
  | a32 =>
    obtain ⟨hclass, hcond, hsel⟩ := decode_a32_instr h
    obtain ⟨hset, hwf, henc⟩ := selectA1_instr hsel
    exact ⟨hset, hwf.trans (wellFormed_A1_iff.2 hcond), henc.trans (encodeA1_fieldsA1 hclass)⟩
  | t32 =>
    obtain ⟨hclass, hsel⟩ := decode_t32_instr h
    obtain ⟨hset, hwf, henc⟩ := selectT1_instr hsel
    exact ⟨hset, hwf, henc.trans (encodeT1_fieldsT1 hclass)⟩

/-! ### Match and mask of the six encodings -/

/-- The mask of the A1 encodings is the class mask and `sz`, so it fixes the class and the value of `sz` (R67). -/
theorem class_and_sz_of_rowA1 {w : Word} {sz : BitVec 2}
    (hrow : w &&& 0x0FF002F0#32 = 0x01000040#32 ||| (sz.setWidth 32 <<< 21)) :
    inClassA1 w = true ∧ szA1 w = sz := by
  constructor
  · have hmask : 0x0F9002F0#32 = 0x0FF002F0#32 &&& 0x0F9002F0#32 := by decide
    rw [inClassA1_iff, hmask, ← BitVec.and_assoc, hrow]
    clear hrow
    revert sz
    decide
  · refine extractLsb'_eq_of_bits fun i hi => ?_
    rw [getLsbD_of_and_eq hrow (by interval_cases i <;> rfl)]
    interval_cases i <;> simp

theorem class_and_sz_of_rowT1 {w : Word} {sz : BitVec 2}
    (hrow : w &&& 0xFFF0F0F0#32 = 0xFAC0F080#32 ||| (sz.setWidth 32 <<< 4)) :
    inClassT1 w = true ∧ szT1 w = sz := by
  constructor
  · have hmask : 0xFFF0F0C0#32 = 0xFFF0F0F0#32 &&& 0xFFF0F0C0#32 := by decide
    rw [inClassT1_iff, hmask, ← BitVec.and_assoc, hrow]
    clear hrow
    revert sz
    decide
  · refine extractLsb'_eq_of_bits fun i hi => ?_
    rw [getLsbD_of_and_eq hrow (by interval_cases i <;> rfl)]
    interval_cases i <;> simp

/-- A word decodes to the encoding of a value of `sz` exactly when it has that row's fixed bits and `cond` is not `1111`. -/
theorem decodes_A1_iff {w : Word} {sz : BitVec 2} {mk : A1Operands → Instr} (hmk : ∀ o, selectA1 sz o = .instr (mk o)) :
    (∃ o, decode .a32 w = .instr (mk o)) ↔
      w &&& 0x0FF002F0#32 = 0x01000040#32 ||| (sz.setWidth 32 <<< 21) ∧ w.extractLsb' 28 4 ≠ 0b1111#4 := by
  constructor
  · rintro ⟨o, h⟩
    obtain ⟨-, hcond, -⟩ := decode_a32_instr h
    obtain ⟨-, -, hw⟩ := encodeOfDecodedInstr .a32 w (mk o) h
    obtain ⟨-, -, henc⟩ := selectA1_instr (hmk o)
    refine ⟨?_, hcond⟩
    rw [← hw, henc]
    exact rowBits_A1 sz o
  · rintro ⟨hrow, hcond⟩
    obtain ⟨hclass, rfl⟩ := class_and_sz_of_rowA1 hrow
    exact ⟨fieldsA1 w, (decode_a32_inClass hclass hcond).trans (hmk _)⟩

theorem decodes_T1_iff {w : Word} {sz : BitVec 2} {mk : T1Operands → Instr} (hmk : ∀ o, selectT1 sz o = .instr (mk o)) :
    (∃ o, decode .t32 w = .instr (mk o)) ↔ w &&& 0xFFF0F0F0#32 = 0xFAC0F080#32 ||| (sz.setWidth 32 <<< 4) := by
  constructor
  · rintro ⟨o, h⟩
    obtain ⟨-, -, hw⟩ := encodeOfDecodedInstr .t32 w (mk o) h
    obtain ⟨-, -, henc⟩ := selectT1_instr (hmk o)
    rw [← hw, henc]
    exact rowBits_T1 sz o
  · intro hrow
    obtain ⟨hclass, rfl⟩ := class_and_sz_of_rowT1 hrow
    exact ⟨fieldsT1 w, (decode_t32_inClass hclass).trans (hmk _)⟩

/-- A pattern of a class with `sz == 11` is none of the encodings (R67, R73). -/
theorem decode_a32_ne_instr {w : Word} (hsz : szA1 w = 0b11#2) (i : Instr) : decode .a32 w ≠ .instr i := by
  intro h
  obtain ⟨-, -, hsel⟩ := decode_a32_instr h
  rw [hsz] at hsel
  cases hsel

theorem decode_t32_ne_instr {w : Word} (hsz : szT1 w = 0b11#2) (i : Instr) : decode .t32 w ≠ .instr i := by
  intro h
  obtain ⟨-, hsel⟩ := decode_t32_instr h
  rw [hsz] at hsel
  cases hsel

/-- The complete A1 word with `cond` 1110 and the `(0)` bits zero (R67, R84). -/
theorem encodeA1_eq_or (sz : BitVec 2) (rn rd rm : RegField) :
    encodeA1 sz ⟨0b1110#4, rn, rd, 0#3, rm⟩ =
      0xE1000040#32 ||| (sz.setWidth 32 <<< 21) ||| (rn.setWidth 32 <<< 16) ||| (rd.setWidth 32 <<< 12) |||
        rm.setWidth 32 := by
  apply BitVec.eq_of_getLsbD_eq
  intro k hk
  rw [getLsbD_encodeA1 _ _ hk]
  interval_cases k <;> simp

/-- The two halfwords of a T1 pattern (R73, R84). -/
theorem encodeT1_eq_halfwords (sz : BitVec 2) (rn rd rm : RegField) :
    encodeT1 sz ⟨rn, rd, rm⟩ =
      (0xFAC0#16 ||| rn.setWidth 16) ++
        (0xF080#16 ||| (rd.setWidth 16 <<< 8) ||| (sz.setWidth 16 <<< 4) ||| rm.setWidth 16) := by
  apply BitVec.eq_of_getLsbD_eq
  intro k hk
  rw [getLsbD_encodeT1 _ _ hk, BitVec.getLsbD_append]
  interval_cases k <;> simp

/-- Settles O3: each row is the class with one value of `sz`. -/
theorem a1MatchAndMask : Obligations.A1MatchAndMask := by
  refine ⟨fun w => ⟨?_, ?_, ?_, fun h => ?_⟩, by decide, fun rn rd rm => ⟨?_, ?_, ?_⟩⟩
  · exact decodes_A1_iff (sz := 0b00#2) fun _ => rfl
  · exact decodes_A1_iff (sz := 0b01#2) fun _ => rfl
  · exact decodes_A1_iff (sz := 0b10#2) fun _ => rfl
  · obtain ⟨hclass, hsz⟩ := class_and_sz_of_rowA1 (sz := 0b11#2) h
    exact ⟨inClassA1_iff.1 hclass, decode_a32_ne_instr hsz⟩
  · exact encodeA1_eq_or 0b00#2 rn rd rm
  · exact encodeA1_eq_or 0b01#2 rn rd rm
  · exact encodeA1_eq_or 0b10#2 rn rd rm

/-- Settles O4: each row is the class with one value of `sz`. -/
theorem t1MatchAndMask : Obligations.T1MatchAndMask := by
  refine ⟨fun w => ⟨?_, ?_, ?_, fun h => ?_⟩, encodeT1_eq_halfwords⟩
  · exact decodes_T1_iff (sz := 0b00#2) fun _ => rfl
  · exact decodes_T1_iff (sz := 0b01#2) fun _ => rfl
  · exact decodes_T1_iff (sz := 0b10#2) fun _ => rfl
  · obtain ⟨hclass, hsz⟩ := class_and_sz_of_rowT1 (sz := 0b11#2) h
    exact ⟨inClassT1_iff.1 hclass, decode_t32_ne_instr hsz⟩

/-! ### Patterns outside the classes -/

/-- Bit 27 tells the classes apart. -/
theorem inClassT1_eq_false_of_inClassA1 {w : Word} (h : inClassA1 w = true) : inClassT1 w = false := by
  rw [← encodeA1_fieldsA1 h]
  exact inClassT1_encodeA1 _ _

theorem inClassA1_eq_false_of_inClassT1 {w : Word} (h : inClassT1 w = true) : inClassA1 w = false := by
  refine Bool.eq_false_iff.2 fun hA1 => ?_
  rw [inClassT1_eq_false_of_inClassA1 hA1] at h
  cases h

/-- `C` is in the class mask, and the class match has it zero (R67, R77). -/
theorem inClassA1_eq_false_of_C {w : Word} (h : w.getLsbD 9 = true) : inClassA1 w = false := by
  refine Bool.eq_false_iff.2 fun hclass => ?_
  rw [getLsbD_of_and_eq (inClassA1_iff.1 hclass) (by decide)] at h
  cases h

theorem inClassT1_eq_false_of_C {w : Word} (h : w.getLsbD 20 = true) : inClassT1 w = false := by
  refine Bool.eq_false_iff.2 fun hclass => ?_
  rw [getLsbD_of_and_eq (inClassT1_iff.1 hclass) (by decide)] at h
  cases h

/-- Settles O7: no such pattern is in the class it is tried against, but for `cond == 1111`, which has its own outcome. -/
theorem patternsOutsideTheClassesAreUndecoded : Obligations.PatternsOutsideTheClassesAreUndecoded := by
  intro w
  exact ⟨fun h => decode_a32_outside (inClassA1_eq_false_of_C h), fun h => decode_t32_outside (inClassT1_eq_false_of_C h),
    decode_a32_condition1111, fun h => decode_t32_outside (inClassT1_eq_false_of_inClassA1 h),
    fun h => decode_a32_outside (inClassA1_eq_false_of_inClassT1 h)⟩

/-! ### The assembler -/

theorem assemble_narrow (iset : ISet) {l : AsmLine} (h : l.qualifier = .narrow) : assemble iset l = none := by
  simp only [assemble, h]

/-- `.W` has no effect (R81). -/
theorem assemble_omitted (iset : ISet) {l : AsmLine} (h : l.qualifier ≠ .narrow) :
    assemble iset l = assemble iset { l with qualifier := .omitted } := by
  obtain ⟨mn, q, rd, rn, rm⟩ := l
  cases q with
  | omitted => rfl
  | narrow => exact absurd rfl h
  | wide => rfl

/-- The value of `sz` a mnemonic stands for (R75), the one its assembled encodings have. -/
def Mnemonic.sz : Mnemonic → BitVec 2
  | .crc32b => 0b00#2
  | .crc32h => 0b01#2
  | .crc32w => 0b10#2

theorem assemble_a32_encode {l : AsmLine} (h : l.qualifier ≠ .narrow) :
    (assemble .a32 l).map encode = some (encodeA1 l.mnemonic.sz l.fieldsA1) := by
  rw [assemble_omitted .a32 h]
  obtain ⟨mn, q, rd, rn, rm⟩ := l
  cases mn <;> rfl

theorem assemble_t32_encode {l : AsmLine} (h : l.qualifier ≠ .narrow) :
    (assemble .t32 l).map encode = some (encodeT1 l.mnemonic.sz l.fieldsT1) := by
  rw [assemble_omitted .t32 h]
  obtain ⟨mn, q, rd, rn, rm⟩ := l
  cases mn <;> rfl

theorem setWidth_regField {n : Nat} (h : 4 ≤ n) (i : Fin 15) :
    (BitVec.ofNat 4 i.val).setWidth n = BitVec.ofNat n i.val :=
  BitVec.setWidth_ofNat_of_le_of_lt h (i.isLt.trans (by decide))

theorem regField_toNat (i : Fin 15) : (BitVec.ofNat 4 i.val).toNat = i.val :=
  Nat.mod_eq_of_lt (i.isLt.trans (by decide))

theorem regField_ne_fifteen (i : Fin 15) : BitVec.ofNat 4 i.val ≠ 15#4 := by
  revert i
  decide

theorem encodeA1_asmLine (sz : BitVec 2) (l : AsmLine) :
    encodeA1 sz l.fieldsA1 =
      0xE1000040#32 ||| (sz.setWidth 32 <<< 21) ||| (BitVec.ofNat 32 l.rn <<< 16) |||
        (BitVec.ofNat 32 l.rd <<< 12) ||| BitVec.ofNat 32 l.rm := by
  rw [AsmLine.fieldsA1, encodeA1_eq_or]
  simp only [setWidth_regField (show 4 ≤ 32 by decide)]

theorem encodeT1_asmLine (sz : BitVec 2) (l : AsmLine) :
    encodeT1 sz l.fieldsT1 =
      (0xFAC0#16 ||| BitVec.ofNat 16 l.rn) ++
        (0xF080#16 ||| (BitVec.ofNat 16 l.rd <<< 8) ||| (sz.setWidth 16 <<< 4) ||| BitVec.ofNat 16 l.rm) := by
  rw [AsmLine.fieldsT1, encodeT1_eq_halfwords]
  simp only [setWidth_regField (show 4 ≤ 16 by decide)]

theorem isDefined_asmLine_A1 (l : AsmLine) : l.fieldsA1.isDefined = true := by
  simp [A1Operands.isDefined, AsmLine.fieldsA1, regField_ne_fifteen]

theorem isDefined_asmLine_T1 (l : AsmLine) : l.fieldsT1.isDefined = true := by
  simp [T1Operands.isDefined, AsmLine.fieldsT1, regField_ne_fifteen]

theorem lineOfFields_regFields (mn : Mnemonic) (rd rn rm : Fin 15) :
    lineOfFields mn (BitVec.ofNat 4 rd) (BitVec.ofNat 4 rn) (BitVec.ofNat 4 rm) = some ⟨mn, .omitted, rd, rn, rm⟩ := by
  simp only [lineOfFields, regField_toNat, Fin.is_lt, dite_true, Fin.eta]

theorem assemble_disassemble (iset : ISet) {l : AsmLine} (h : l.qualifier ≠ .narrow) :
    (assemble iset l).bind disassemble = some { l with qualifier := .omitted } := by
  rw [assemble_omitted iset h]
  obtain ⟨mn, q, rd, rn, rm⟩ := l
  have hline := lineOfFields_regFields mn rd rn rm
  cases iset with
  | a32 => cases mn <;> exact (if_pos (isDefined_asmLine_A1 _)).trans hline
  | t32 => cases mn <;> exact (if_pos (isDefined_asmLine_T1 _)).trans hline

/-- Settles O5: the two formulas are the diagrams' words, and the register fields of a line are read back from them. -/
theorem assembledWords : Obligations.AssembledWords := by
  refine ⟨fun iset l => assemble_narrow iset, fun l sz hq hmn => ?_, ?_⟩
  · have hsz : sz = l.mnemonic.sz := by
      obtain ⟨hm, rfl⟩ | ⟨hm, rfl⟩ | ⟨hm, rfl⟩ := hmn <;> rw [hm] <;> rfl
    subst hsz
    rw [assemble_a32_encode hq, assemble_t32_encode hq, encodeA1_asmLine, encodeT1_asmLine]
    exact ⟨rfl, rfl, fun iset => assemble_disassemble iset hq⟩
  · decide

end Sys2Proof

namespace Sys2Proof.Machine

open Sys2Proof.Config (CondChoice)

/-! ### The `(0)` bits of an A1 word -/

theorem runDecoded_selectA1 (sz : BitVec 2) (o : A1Operands) (s : State) :
    runDecoded (selectA1 sz o) s = runA1 sz o s := by
  obtain rfl | rfl | rfl | rfl := sz_cases sz
  all_goals rfl

/-- An A32 word that completes is one of class A1 with its `(0)` bits zero. -/
theorem runDecoded_a32_next {w : Word} {s t : State} (h : runDecoded (decode .a32 w) s = .next t) :
    (fieldsA1 w).sbz = 0#3 := by
  simp only [decode] at h
  split_ifs at h
  · cases h
  · rw [runDecoded_selectA1] at h
    obtain ⟨hsbz, -⟩ := runA1_next h
    exact hsbz
  · cases h

/-- A bit that is set is one of the three the operand field holds. -/
theorem sbz_fieldsA1_ne_zero {w : Word} (h : w.getLsbD 11 = true ∨ w.getLsbD 10 = true ∨ w.getLsbD 8 = true) :
    (fieldsA1 w).sbz ≠ 0#3 := by
  intro hz
  have hbit {k : Nat} (hk : k < 3) : (if k < 1 then w.getLsbD 8 else w.getLsbD (k + 9)) = false := by
    rw [← getLsbD_sbz_fieldsA1 w hk, hz, BitVec.getLsbD_zero]
  obtain h | h | h := h
  · exact absurd h (Bool.eq_false_iff.1 (hbit (k := 2) (by decide)))
  · exact absurd h (Bool.eq_false_iff.1 (hbit (k := 1) (by decide)))
  · exact absurd h (Bool.eq_false_iff.1 (hbit (k := 0) (by decide)))

/-- The test neither raises nor refuses: a NOP choice, or decoding goes on. -/
def Resolution.Passes {α : Type} (r : Resolution α) : Prop :=
  r = .nop ∨ ∃ a, r = .proceed a

/-- Where both ways on have one outcome, a test that passes has it. -/
theorem resolve_of_passes {α : Type} {r : Resolution α} {p : Word} {s : State} {n out : Result} {k : α → Result}
    (h : r.Passes) (hn : n = out) (hk : ∀ a, k a = out) : resolve r p s n k = out := by
  obtain rfl | ⟨a, rfl⟩ := h
  · exact hn
  · exact hk a

theorem resolveCond_passes {c : Option CondChoice} {cond : BitVec 4}
    (h : cond = 0b1110#4 ∨ c = some .nop ∨ c = some .uncond) (f : NZCV) : (resolveCond c cond f).Passes := by
  by_cases hcond : cond = alwaysCondition
  · rw [hcond, resolveCond_always]
    exact .inr ⟨true, rfl⟩
  · obtain hc | rfl | rfl := h
    · exact absurd hc hcond
    · exact .inl (resolveCond_nop f hcond)
    · exact .inr ⟨true, resolveCond_uncond f hcond⟩

section SbzSet

variable {sz : BitVec 2} {o : A1Operands} {s : State} {r : RegNums}

/-- A NOP choice for the size is put to the `(0)` bits before `cond` is looked at (R136, log 8). -/
theorem runA1_sbz_of_size_nop (hcrc : s.params.haveCrc32 = true) (hr : regNums o.rd o.rn o.rm = some r)
    (hsbz : o.sbz ≠ 0#3) (hsize : resolveSize s.params.cuSize64 (sizeOfSz sz) = .nop) :
    runA1 sz o s = .refused .shouldBeZeroBitSet := by
  simp only [runA1, hcrc, if_true, hr, hsize, resolve_nop, refuseShouldBeZero_set _ hsbz]

/-- Where the size goes on and `cond` is passed, the word is refused for its `(0)` bits (R76 step 6). -/
theorem runA1_sbz_of_size_proceed {size : Nat} (hcrc : s.params.haveCrc32 = true)
    (hr : regNums o.rd o.rn o.rm = some r) (hsbz : o.sbz ≠ 0#3)
    (hsize : resolveSize s.params.cuSize64 (sizeOfSz sz) = .proceed size)
    (hcond : o.cond = 0b1110#4 ∨ s.params.cuCond = some .nop ∨ s.params.cuCond = some .uncond) :
    runA1 sz o s = .refused .shouldBeZeroBitSet := by
  simp only [runA1, hcrc, if_true, hr, hsize, resolve_proceed, refuseShouldBeZero_set _ hsbz]
  exact resolve_of_passes (resolveCond_passes hcond s.nzcv) rfl fun _ => rfl

end SbzSet

/-- Settles O39: what completes has no `(0)` bit set; where the tests of the Decode block pass, those bits are put next. -/
theorem shouldBeZeroBitsAreRefused : Obligations.ShouldBeZeroBitsAreRefused := by
  refine ⟨fun w s t hbit h => sbz_fieldsA1_ne_zero hbit (runDecoded_a32_next h), ?sizes, ?size64⟩
  case sizes =>
    intro i o s hi hcrc hd hn hm hsbz hcond
    obtain ⟨r, hr⟩ := exists_regNums_iff.2 ⟨hd, hn, hm⟩
    obtain rfl | rfl | rfl := hi
    · exact runA1_sbz_of_size_proceed hcrc hr hsbz (resolveSize_byte _) hcond
    · exact runA1_sbz_of_size_proceed hcrc hr hsbz (resolveSize_half _) hcond
    · exact runA1_sbz_of_size_proceed hcrc hr hsbz (resolveSize_word _) hcond
  case size64 =>
    intro o s hcrc hd hn hm hsbz
    obtain ⟨r, hr⟩ := exists_regNums_iff.2 ⟨hd, hn, hm⟩
    constructor
    · intro hnop
      exact runA1_sbz_of_size_nop hcrc hr hsbz (by rw [hnop]; exact resolveSize_nop)
    · intro hsize32 hcond
      exact runA1_sbz_of_size_proceed hcrc hr hsbz (by rw [hsize32]; exact resolveSize_size32) hcond

end Sys2Proof.Machine
end

section
/-! PROOFS. The CRC function (40_crc32.md): the shift-and-xor form of R104 and what follows from it (R105 to R107, R112),
the Execute block as a polynomial remainder (R102, R103), and what each encoding writes (R105 to R111). -/

namespace Sys2Proof.Machine

open Polynomial (X)

/-! ### One round of the shift-and-xor form -/

/-- One round of R104: the register moves right a bit; where a one fell out, the reflected polynomial is added. -/
def crcRound (p c : Word) : Word :=
  if c.getLsbD 0 then (c >>> 1) ^^^ p else c >>> 1

theorem crcShiftLoop_succ (p : Word) (k : Nat) (c : Word) :
    crcShiftLoop p (k + 1) c = crcShiftLoop p k (crcRound p c) := rfl

theorem crcRound_of_clear {p c : Word} (h : c.getLsbD 0 = false) : crcRound p c = c >>> 1 := by
  rw [crcRound, h]
  rfl

theorem crcRound_of_set {p c : Word} (h : c.getLsbD 0 = true) : crcRound p c = (c >>> 1) ^^^ p := by
  rw [crcRound, h]
  rfl

theorem getLsbD_crcRound (p c : Word) (i : Nat) :
    (crcRound p c).getLsbD i = (c.getLsbD (i + 1) ^^ (c.getLsbD 0 && p.getLsbD i)) := by
  cases h : c.getLsbD 0 with
  | false => simp [crcRound_of_clear h, Nat.add_comm]
  | true => simp [crcRound_of_set h, Nat.add_comm]

theorem crcRound_xor (p a b : Word) : crcRound p (a ^^^ b) = crcRound p a ^^^ crcRound p b := by
  apply BitVec.eq_of_getLsbD_eq
  intro i _
  simp only [getLsbD_crcRound, BitVec.getLsbD_xor, Bool.and_xor_distrib_right, Bool.xor_assoc, Bool.xor_left_comm]

/-- With the top bit of the polynomial set, that bit of a round's result is the bit that fell out: nothing is lost. -/
theorem eq_zero_of_crcRound_eq_zero {p c : Word} (hp : p.getLsbD 31 = true) (h : crcRound p c = 0#32) : c = 0#32 := by
  have hbit (i : Nat) : (c.getLsbD (i + 1) ^^ (c.getLsbD 0 && p.getLsbD i)) = false := by
    rw [← getLsbD_crcRound, h, BitVec.getLsbD_zero]
  have hlow : c.getLsbD 0 = false := by
    rw [← hbit 31, hp, BitVec.getLsbD_of_ge c 32 (Nat.le_refl 32), Bool.and_true, Bool.false_xor]
  apply BitVec.eq_of_getLsbD_eq
  intro i _
  rw [BitVec.getLsbD_zero]
  cases i with
  | zero => exact hlow
  | succ i => rw [← hbit i, hlow, Bool.false_and, Bool.xor_false]

/-! ### The loop of the shift-and-xor form -/

theorem crcShiftLoop_add (p : Word) (j k : Nat) (c : Word) :
    crcShiftLoop p (j + k) c = crcShiftLoop p k (crcShiftLoop p j c) := by
  induction j generalizing c with
  | zero => rw [Nat.zero_add, crcShiftLoop]
  | succ j ih => rw [Nat.add_right_comm, crcShiftLoop_succ, crcShiftLoop_succ, ih]

theorem crcShiftLoop_xor (p : Word) (k : Nat) (a b : Word) :
    crcShiftLoop p k (a ^^^ b) = crcShiftLoop p k a ^^^ crcShiftLoop p k b := by
  induction k generalizing a b with
  | zero => rfl
  | succ k ih => rw [crcShiftLoop_succ, crcRound_xor, ih, crcShiftLoop_succ, crcShiftLoop_succ]

/-- A register whose low `k` bits are clear is only shifted in `k` rounds. -/
theorem crcShiftLoop_of_low_clear (p : Word) {k : Nat} {c : Word} (h : ∀ i < k, c.getLsbD i = false) :
    crcShiftLoop p k c = c >>> k := by
  induction k generalizing c with
  | zero => rw [crcShiftLoop, BitVec.ushiftRight_zero]
  | succ k ih =>
    have hshift : ∀ i < k, (c >>> 1).getLsbD i = false := by
      intro i hi
      rw [BitVec.getLsbD_ushiftRight]
      exact h _ (by omega)
    rw [crcShiftLoop_succ, crcRound_of_clear (h 0 (Nat.zero_lt_succ k)), ih hshift, ← BitVec.shiftRight_add,
      Nat.add_comm]

theorem eq_zero_of_crcShiftLoop_eq_zero {p : Word} (hp : p.getLsbD 31 = true) {k : Nat} {c : Word}
    (h : crcShiftLoop p k c = 0#32) : c = 0#32 := by
  induction k generalizing c with
  | zero => exact h
  | succ k ih => exact eq_zero_of_crcRound_eq_zero hp (ih h)

/-- The loop is linear and loses nothing, so different registers stay different. -/
theorem crcShiftLoop_injective {p : Word} (hp : p.getLsbD 31 = true) (k : Nat) :
    Function.Injective (crcShiftLoop p k) := by
  intro a b h
  rw [← BitVec.xor_eq_zero_iff] at h ⊢
  rw [← crcShiftLoop_xor] at h
  exact eq_zero_of_crcShiftLoop_eq_zero hp h

theorem crcShiftLoop_of_zero (p : Word) (k : Nat) : crcShiftLoop p k 0#32 = 0#32 := by
  rw [crcShiftLoop_of_low_clear p fun i _ => BitVec.getLsbD_zero, BitVec.zero_ushiftRight]

/-! ### The value of the operand -/

/-- The low `size` bits of the data operand, extended with zeros: `zext_32(v[size-1:0])` of R104. -/
def lowBits (v : Word) (size : Nat) : Word :=
  (v.setWidth size).setWidth 32

theorem getLsbD_lowBits (v : Word) (size i : Nat) :
    (lowBits v size).getLsbD i = (decide (i < size) && v.getLsbD i) := by
  by_cases hi : i < 32
  · simp [lowBits, hi]
  · simp [lowBits, hi, BitVec.getLsbD_of_ge v i (by omega)]

theorem lowBits_xor (v w : Word) (size : Nat) : lowBits (v ^^^ w) size = lowBits v size ^^^ lowBits w size := by
  simp only [lowBits, BitVec.setWidth_xor]

theorem lowBits_zero (size : Nat) : lowBits 0#32 size = 0#32 := by
  simp [lowBits]

/-- The low `j + k` bits are the low `j` bits and, above them, the next `k`. -/
theorem lowBits_add {j k : Nat} (v : Word) :
    lowBits v (j + k) = lowBits v j ^^^ (lowBits (v >>> j) k <<< j) := by
  apply BitVec.eq_of_getLsbD_eq
  intro i hi
  simp only [BitVec.getLsbD_xor, BitVec.getLsbD_shiftLeft, getLsbD_lowBits, BitVec.getLsbD_ushiftRight]
  by_cases hij : i < j
  · simp [hij, show i < j + k by omega]
  · simp [hij, hi, show j + (i - j) = i by omega, show i - j < k ↔ i < j + k by omega]

/-- Bits shifted up without loss come down unchanged. -/
theorem shiftLeft_ushiftRight_lowBits {j k : Nat} (v : Word) (h : j + k ≤ 32) :
    lowBits v k <<< j >>> j = lowBits v k := by
  apply BitVec.eq_of_getLsbD_eq
  intro i hi
  rw [BitVec.getLsbD_ushiftRight, BitVec.getLsbD_shiftLeft, Nat.add_sub_cancel_left, getLsbD_lowBits]
  by_cases hik : i < k
  · simp [show j + i < 32 by omega]
  · simp [hik]

theorem crcShift_eq (p acc v : Word) (size : Nat) :
    crcShift p acc v size = crcShiftLoop p size (acc ^^^ lowBits v size) := rfl

/-! ### The shift-and-xor form computes the Execute block (R104) -/

/-- The bitstring `Poly32Mod2` divides: `tempacc EOR tempval` of the Execute block (R103). -/
def crcDividend (size : Nat) (acc v : Word) : BitVec (32 + size) :=
  (bitReverse acc ++ 0#size) ^^^ (bitReverse (v.setWidth size) ++ 0#32).cast (Nat.add_comm size 32)

theorem crcExecute_eq (c : Bool) (size : Nat) (acc v : Word) :
    crcExecute c size acc v = bitReverse (polyMod32 (crcDividend size acc v) (crcPoly c)) := rfl

/-- The bits of `data` below `32 + k` are the reverse of the register `c`, above `k` zeros. -/
def HoldsReversed {n : Nat} (data : BitVec n) (k : Nat) (c : Word) : Prop :=
  ∀ i < 32 + k, data.getLsbD i = (decide (k ≤ i) && c.getLsbD (31 + k - i))

/-- For sizes up to 32 the reversals of the two lengths meet: the value lies over the low bits of the accumulator. -/
theorem holdsReversed_crcDividend {size : Nat} (h : size ≤ 32) (acc v : Word) :
    HoldsReversed (crcDividend size acc v) size (acc ^^^ lowBits v size) := by
  intro i hi
  simp only [crcDividend, BitVec.getLsbD_xor, BitVec.getLsbD_cast, BitVec.getLsbD_append, BitVec.getLsbD_zero,
    getLsbD_lowBits]
  by_cases his : i < size
  · simp [his, show i < 32 by omega]
  · rw [if_neg his, getLsbD_bitReverse acc (by omega), decide_eq_true (Nat.le_of_not_lt his), Bool.true_and,
      show 32 - 1 - (i - size) = 31 + size - i by omega]
    by_cases hi32 : i < 32
    · simp [hi32, show ¬ 31 + size - i < size by omega]
    · rw [if_neg hi32, getLsbD_bitReverse _ (by omega), BitVec.getLsbD_setWidth,
        show size - 1 - (i - 32) = 31 + size - i by omega]

/-- One round of `Poly32Mod2` (R18), at bit `32 + k`. -/
def polyModRound {n : Nat} (poly : Word) (k : Nat) (data : BitVec n) : BitVec n :=
  if data.getLsbD (32 + k) then data ^^^ (poly.setWidth n <<< k) else data

theorem polyModLoop_succ {n : Nat} (poly : Word) (k : Nat) (data : BitVec n) :
    polyModLoop poly (k + 1) data = polyModLoop poly k (polyModRound poly k data) := rfl

theorem getLsbD_polyModRound {n : Nat} (poly : Word) (k : Nat) (data : BitVec n) {i : Nat} (hi : i < n) :
    (polyModRound poly k data).getLsbD i =
      (data.getLsbD i ^^ (data.getLsbD (32 + k) && (decide (k ≤ i) && poly.getLsbD (i - k)))) := by
  unfold polyModRound
  cases data.getLsbD (32 + k) with
  | false => simp
  | true => simp [hi, ← decide_not]

/-- The round of `Poly32Mod2` at bit `32 + k` is a round of the shift-and-xor form on the register held below it. -/
theorem HoldsReversed.round {n : Nat} {data : BitVec n} {k : Nat} {c : Word} (h : HoldsReversed data (k + 1) c)
    (hn : 32 + (k + 1) ≤ n) (poly : Word) :
    HoldsReversed (polyModRound poly k data) k (crcRound (bitReverse poly) c) := by
  intro i hi
  have htop : data.getLsbD (32 + k) = c.getLsbD 0 := by
    rw [h _ (by omega), decide_eq_true (by omega), Bool.true_and, show 31 + (k + 1) - (32 + k) = 0 by omega]
  rw [getLsbD_polyModRound poly k data (by omega), htop, h i (by omega), getLsbD_crcRound]
  by_cases hk : k ≤ i
  · rw [getLsbD_bitReverse poly (by omega), show 31 + k - i + 1 = 31 + (k + 1) - i by omega,
      show 32 - 1 - (31 + k - i) = i - k by omega]
    obtain rfl | hlt := Nat.eq_or_lt_of_le hk
    · simp [BitVec.getLsbD_of_ge c (31 + (k + 1) - k) (by omega)]
    · simp [hk, hlt]
  · simp [hk, show ¬ k + 1 ≤ i by omega]

theorem HoldsReversed.polyModLoop_crcShiftLoop {n : Nat} {data : BitVec n} {k : Nat} {c : Word}
    (h : HoldsReversed data k c) (hn : 32 + k ≤ n) (poly : Word) :
    HoldsReversed (polyModLoop poly k data) 0 (crcShiftLoop (bitReverse poly) k c) := by
  induction k generalizing data c with
  | zero => exact h
  | succ k ih =>
    rw [polyModLoop_succ, crcShiftLoop_succ]
    exact ih (h.round hn poly) (by omega)

theorem HoldsReversed.setWidth_eq {n : Nat} {data : BitVec n} {c : Word} (h : HoldsReversed data 0 c) :
    data.setWidth 32 = bitReverse c := by
  apply BitVec.eq_of_getLsbD_eq
  intro i hi
  rw [getLsbD_bitReverse c hi, BitVec.getLsbD_setWidth, h i hi]
  simp [hi]

/-- R104 for every size up to 32 and both polynomials: `Poly32Mod2` runs the shift-and-xor form on reversed bits. -/
theorem crcExecute_eq_crcShift (c : Bool) {size : Nat} (h : size ≤ 32) (acc v : Word) :
    crcExecute c size acc v = crcShift (bitReverse (crcPoly c)) acc v size := by
  have hloop := (holdsReversed_crcDividend h acc v).polyModLoop_crcShiftLoop (Nat.le_refl _) (crcPoly c)
  rw [crcExecute_eq, polyMod32, Nat.add_sub_cancel_left, hloop.setWidth_eq, bitReverse_bitReverse, crcShift_eq]

theorem bitReverse_eq_of_mirrored {n : Nat} {x y : BitVec n} (h : ∀ i < n, x.getLsbD (n - 1 - i) = y.getLsbD i) :
    bitReverse x = y :=
  BitVec.eq_of_getLsbD_eq fun i hi => (getLsbD_bitReverse x hi).trans (h i hi)

theorem bitReverse_crcPoly_false : bitReverse (crcPoly false) = 0xEDB88320#32 :=
  bitReverse_eq_of_mirrored (by decide)

theorem bitReverse_crcPoly_true : bitReverse (crcPoly true) = 0x82F63B78#32 :=
  bitReverse_eq_of_mirrored (by decide)

/-- The sizes the six encodings select (R12) are within the accumulator's width. -/
theorem size_le_of_operand {size : Nat} (h : size = 8 ∨ size = 16 ∨ size = 32) : size ≤ 32 := by
  omega

theorem crc32Step_eq_crcShiftLoop {size : Nat} (h : size ≤ 32) (acc v : Word) :
    crc32Step acc v size = crcShiftLoop 0xEDB88320#32 size (acc ^^^ lowBits v size) := by
  rw [crc32Step, crcExecute_eq_crcShift false h, bitReverse_crcPoly_false, crcShift_eq]

/-- Settles O13: both polynomials go through one lemma about the loop of `Poly32Mod2`. -/
theorem shiftFormComputesCrc32Step : Obligations.ShiftFormComputesCrc32Step := by
  refine ⟨fun acc v size hsize => ⟨?_, ?_⟩, bitReverse_crcPoly_false, bitReverse_crcPoly_true⟩
  · rw [crc32Step, crcExecute_eq_crcShift false (size_le_of_operand hsize), bitReverse_crcPoly_false]
  · rw [crcExecute_eq_crcShift true (size_le_of_operand hsize), bitReverse_crcPoly_true]

/-! ### What follows from the shift-and-xor form (R112) -/

/-- Settles O14: the operands enter the loop as their exclusive OR only, and the loop is linear. -/
theorem crc32StepIsLinear : Obligations.Crc32StepIsLinear := by
  intro a a' v v' size hsize
  have hle := size_le_of_operand hsize
  have hzero : crc32Step 0#32 0#32 size = 0#32 := by
    rw [crc32Step_eq_crcShiftLoop hle, lowBits_zero, BitVec.xor_zero, crcShiftLoop_of_zero]
  refine ⟨?_, ?_, hzero⟩
  · rw [crc32Step_eq_crcShiftLoop hle, crc32Step_eq_crcShiftLoop hle, lowBits_zero, BitVec.xor_zero, lowBits]
  · simp only [crc32Step_eq_crcShiftLoop hle, ← crcShiftLoop_xor, lowBits_xor]
    ac_rfl

/-- Chaining, low part first: `j + k` bits of the value at once are its low `j` bits and then the next `k`. The next
bits wait above bit `j` while the low ones are worked off, so `j` rounds only move them down. -/
theorem crc32Step_add {j k : Nat} (h : j + k ≤ 32) (acc v : Word) :
    crc32Step acc v (j + k) = crc32Step (crc32Step acc v j) (v >>> j) k := by
  have hnext : crcShiftLoop 0xEDB88320#32 j (lowBits (v >>> j) k <<< j) = lowBits (v >>> j) k := by
    rw [crcShiftLoop_of_low_clear _ fun i hi => by simp [hi]]
    exact shiftLeft_ushiftRight_lowBits _ h
  rw [crc32Step_eq_crcShiftLoop h, crc32Step_eq_crcShiftLoop (by omega), crc32Step_eq_crcShiftLoop (by omega),
    crcShiftLoop_add, lowBits_add, ← BitVec.xor_assoc, crcShiftLoop_xor, hnext]

/-- A part of the value, moved to the bottom of a register, is the value shifted down, as the step reads low bits only. -/
theorem crc32Step_extractLsb' (acc v : Word) (j : Nat) {k : Nat} (h : k ≤ 32) :
    crc32Step acc ((v.extractLsb' j k).setWidth 32) k = crc32Step acc (v >>> j) k := by
  refine crcExecute_congr_low false acc (BitVec.eq_of_getLsbD_eq fun i hi => ?_)
  simp [hi, show i < 32 by omega]

/-- Settles O15 by the chaining lemma: 16 is 8 + 8, 32 is 16 + 16, and each half of a word again two bytes. -/
theorem crc32StepChainsLowPartFirst : Obligations.Crc32StepChainsLowPartFirst := by
  have hhalf (a v : Word) : crc32Step a v 16 = crc32Step (crc32Step a v 8) (v >>> 8) 8 :=
    crc32Step_add (j := 8) (k := 8) (by decide) a v
  have hword (a v : Word) : crc32Step a v 32 = crc32Step (crc32Step a v 16) (v >>> 16) 16 :=
    crc32Step_add (j := 16) (k := 16) (by decide) a v
  intro a v
  simp only [crc32Step_extractLsb' _ _ _ (show 8 ≤ 32 by decide), crc32Step_extractLsb' _ _ _ (show 16 ≤ 32 by decide),
    BitVec.ushiftRight_zero]
  refine ⟨hhalf a v, hword a v, ?_⟩
  rw [hword, hhalf, hhalf, ← BitVec.shiftRight_add]

/-- Settles O16: the loop is injective, so is the exclusive OR before it, and the words are finitely many. -/
theorem crc32StepIsBijective : Obligations.Crc32StepIsBijective := by
  intro v size hsize
  rw [← Finite.injective_iff_bijective]
  intro a b h
  simp only [crc32Step_eq_crcShiftLoop (size_le_of_operand hsize)] at h
  have htop : (0xEDB88320#32).getLsbD 31 = true := by decide
  exact (BitVec.xor_left_inj (lowBits v size)).1 (crcShiftLoop_injective htop size h)

/-- With equal operands the low `size` bits cancel, and what stays is shifted down. -/
theorem crc32Step_self {size : Nat} (h : size ≤ 32) (v : Word) : crc32Step v v size = v >>> size := by
  have hclear : ∀ i < size, (v ^^^ lowBits v size).getLsbD i = false := by
    intro i hi
    simp [getLsbD_lowBits, hi]
  rw [crc32Step_eq_crcShiftLoop h, crcShiftLoop_of_low_clear _ hclear]
  apply BitVec.eq_of_getLsbD_eq
  intro i hi
  simp [getLsbD_lowBits]

/-- Settles O18: the shift by `size`, which at size 32 leaves nothing. -/
theorem equalOperandsShift : Obligations.EqualOperandsShift := by
  intro v
  refine ⟨crc32Step_self (by decide) v, crc32Step_self (by decide) v, ?_⟩
  rw [crc32Step_self (by decide)]
  exact BitVec.ushiftRight_eq_zero (Nat.le_refl 32)

/-- Settles O17: by chaining, two words and a byte are the nine bytes. -/
theorem commonCrc32CheckValue : Obligations.CommonCrc32CheckValue := by
  have hbytes : [0x31#32, 0x32#32, 0x33#32, 0x34#32, 0x35#32, 0x36#32, 0x37#32, 0x38#32, 0x39#32].foldl
      (fun c b => crc32Step c b 8) 0xFFFFFFFF#32 ^^^ 0xFFFFFFFF#32 = 0xCBF43926#32 := by
    decide +kernel
  refine ⟨hbytes, ?_⟩
  obtain ⟨-, -, hfirst⟩ := crc32StepChainsLowPartFirst 0xFFFFFFFF#32 0x34333231#32
  obtain ⟨-, -, hsecond⟩ := crc32StepChainsLowPartFirst (crc32Step 0xFFFFFFFF#32 0x34333231#32 32) 0x38373635#32
  rw [hsecond, hfirst, ← hbytes]
  rfl

/-! ### The Execute block as a polynomial remainder (R103) -/

theorem bitsPoly_cast {w n : Nat} (h : w = n) (d : BitVec w) : bitsPoly (d.cast h) = bitsPoly d := by
  subst h
  rfl

/-- Zeros below a bitstring multiply it by a power of `x`. -/
theorem bitsPoly_append_zero {n : Nat} (d : BitVec n) (k : Nat) : bitsPoly (d ++ 0#k) = bitsPoly d * X ^ k := by
  ext m
  rw [Polynomial.coeff_mul_X_pow', coeff_bitsPoly, coeff_bitsPoly, BitVec.getLsbD_append, BitVec.getLsbD_zero]
  by_cases hm : m < k
  · simp [hm, Nat.not_le.2 hm]
  · simp [hm, Nat.le_of_not_lt hm]

/-- A reversed bitstring has its bit `j` as the coefficient of `x^(n-1-j)`. -/
theorem bitsPoly_bitReverse {n : Nat} (d : BitVec n) :
    bitsPoly (bitReverse d) = ∑ j ∈ Finset.range n, if d.getLsbD j then X ^ (n - 1 - j) else 0 := by
  rw [bitsPoly, ← Finset.sum_range_reflect]
  refine Finset.sum_congr rfl fun j hj => ?_
  have hjn : j < n := Finset.mem_range.1 hj
  rw [getLsbD_bitReverse d (by omega), show n - 1 - (n - 1 - j) = j by omega]

theorem bitsPoly_crcDividend (size : Nat) (acc v : Word) :
    bitsPoly (crcDividend size acc v) =
      (∑ j ∈ Finset.range 32, if acc.getLsbD j then X ^ (31 - j) else 0) * X ^ size +
        (∑ j ∈ Finset.range size, if v.getLsbD j then X ^ (size - 1 - j) else 0) * X ^ 32 := by
  rw [crcDividend, bitsPoly_xor, bitsPoly_cast, bitsPoly_append_zero, bitsPoly_append_zero, bitsPoly_bitReverse,
    bitsPoly_bitReverse]
  congr 2
  refine Finset.sum_congr rfl fun j hj => ?_
  rw [BitVec.getLsbD_setWidth, decide_eq_true (Finset.mem_range.1 hj), Bool.true_and]

/-- The divisor of R102, term by term: the implied leading term and the set bits of the constant. -/
theorem crcDivisor_eq :
    X ^ 32 + bitsPoly (crcPoly false) =
      (X ^ 32 + X ^ 26 + X ^ 23 + X ^ 22 + X ^ 16 + X ^ 12 + X ^ 11 + X ^ 10 + X ^ 8 + X ^ 7 + X ^ 5 + X ^ 4 + X ^ 2 +
        X + 1 : Polynomial (ZMod 2)) := by
  have hbits : (Finset.range 32).filter (fun i => (crcPoly false).getLsbD i = true) =
      {26, 23, 22, 16, 12, 11, 10, 8, 7, 5, 4, 2, 1, 0} := by decide
  rw [bitsPoly, ← Finset.sum_filter, hbits]
  simp [add_assoc]

theorem coeff_bitsPoly_eq_one_iff {n : Nat} (d : BitVec n) (k : Nat) :
    (bitsPoly d).coeff k = 1 ↔ d.getLsbD k = true := by
  rw [coeff_bitsPoly]
  cases d.getLsbD k <;> decide

/-- Settles O12: the result is the reversed remainder of the dividend, and both reversed operands are its parts. -/
theorem crcIsThePolynomialRemainder : Obligations.CrcIsThePolynomialRemainder := by
  intro acc v size i hsize hi
  have hn : 32 < 32 + size := by omega
  rw [← crcDivisor_eq, ← bitsPoly_crcDividend, ← poly32Mod2IsTheRemainder _ _ _ hn, coeff_bitsPoly_eq_one_iff,
    crc32Step, crcExecute_eq, getLsbD_bitReverse _ hi]

/-! ### What each encoding does (R105 to R111) -/

/-- The next state in the fields it changes: the destination, `pc` and the record of completion. -/
theorem completeAt_writeReg (s : State) (d : Fin 15) (v : Word) :
    completeAt (writeReg s d v) = { s with x := s.x.set d v, pc := s.pc + 4#32, completed := true } := rfl

/-- R105 to R107 for whichever of the three sizes. -/
theorem runA1_writesTheCrc {sz : BitVec 2} (hsz : sizeOfSz sz ≠ 64) {o : A1Operands} {s : State} {d n m : Fin 15}
    (hcrc : s.params.haveCrc32 = true) (hcond : o.cond = 0b1110#4) (hsbz : o.sbz = 0#3) (hd : o.rd.toNat = d.val)
    (hn : o.rn.toNat = n.val) (hm : o.rm.toNat = m.val) (hp : s.pc.toNat + 4 < 2 ^ 32) :
    runA1 sz o s =
      .next { s with
        x := s.x.set d (crc32Step s.x[n] s.x[m] (sizeOfSz sz)), pc := s.pc + 4#32, completed := true } := by
  have hr : regNums o.rd o.rn o.rm = some ⟨d, n, m⟩ := regNums_some.2 ⟨hd, hn, hm⟩
  rw [runA1_completes hsz hcrc hcond hsbz hr hp, completeAt_writeReg]
  rfl

/-- R108 to R110 for whichever of the three sizes. -/
theorem runT1_writesTheCrc {sz : BitVec 2} (hsz : sizeOfSz sz ≠ 64) {o : T1Operands} {s : State} {d n m : Fin 15}
    (hit : s.inItBlock = false) (hcrc : s.params.haveCrc32 = true) (hd : o.rd.toNat = d.val)
    (hn : o.rn.toNat = n.val) (hm : o.rm.toNat = m.val) (hp : s.pc.toNat + 4 < 2 ^ 32) :
    runT1 sz o s =
      .next { s with
        x := s.x.set d (crc32Step s.x[n] s.x[m] (sizeOfSz sz)), pc := s.pc + 4#32, completed := true } := by
  have hr : regNums o.rd o.rn o.rm = some ⟨d, n, m⟩ := regNums_some.2 ⟨hd, hn, hm⟩
  rw [runT1_completes hsz hit hcrc hr hp, completeAt_writeReg]
  rfl

/-- Settles O19: class A1 at `sz == 00`, size 8. -/
theorem crc32bA1WritesTheCrc : Obligations.Crc32bA1WritesTheCrc :=
  fun _ _ _ _ _ => runA1_writesTheCrc (sz := 0b00#2) (by decide)

/-- Settles O20: class A1 at `sz == 01`, size 16. -/
theorem crc32hA1WritesTheCrc : Obligations.Crc32hA1WritesTheCrc :=
  fun _ _ _ _ _ => runA1_writesTheCrc (sz := 0b01#2) (by decide)

/-- Settles O21: class A1 at `sz == 10`, size 32. -/
theorem crc32wA1WritesTheCrc : Obligations.Crc32wA1WritesTheCrc :=
  fun _ _ _ _ _ => runA1_writesTheCrc (sz := 0b10#2) (by decide)

/-- Settles O22: class T1 at `sz == 00`, size 8. -/
theorem crc32bT1WritesTheCrc : Obligations.Crc32bT1WritesTheCrc :=
  fun _ _ _ _ _ => runT1_writesTheCrc (sz := 0b00#2) (by decide)

/-- Settles O23: class T1 at `sz == 01`, size 16. -/
theorem crc32hT1WritesTheCrc : Obligations.Crc32hT1WritesTheCrc :=
  fun _ _ _ _ _ => runT1_writesTheCrc (sz := 0b01#2) (by decide)

/-- Settles O24: class T1 at `sz == 10`, size 32. -/
theorem crc32wT1WritesTheCrc : Obligations.Crc32wT1WritesTheCrc :=
  fun _ _ _ _ _ => runT1_writesTheCrc (sz := 0b10#2) (by decide)

/-- Where the tests only one class has let both through, both refuse register 15 and otherwise run one Execute block. -/
theorem runT1_eq_runA1 {sz : BitVec 2} (hsz : sizeOfSz sz ≠ 64) (rn rd rm : RegField) {s : State}
    (hcrc : s.params.haveCrc32 = true) (hit : s.inItBlock = false) :
    runT1 sz ⟨rn, rd, rm⟩ s = runA1 sz ⟨0b1110#4, rn, rd, 0#3, rm⟩ s := by
  have hcond : resolveCond s.params.cuCond 0b1110#4 s.nzcv = .proceed true := resolveCond_always _ _
  cases hr : regNums rd rn rm with
  | none => simp [runT1, runA1, hcrc, hit, hr]
  | some r => simp [runT1, runA1, hcrc, hit, hr, resolveSize_proceed _ hsz, hcond]

/-- Settles O28, the sizes of the three mnemonics being none of them 64. -/
theorem a1AndT1ComputeTheSame : Obligations.A1AndT1ComputeTheSame := by
  intro rn rd rm s hcrc hit
  exact ⟨runT1_eq_runA1 (by decide) rn rd rm hcrc hit, runT1_eq_runA1 (by decide) rn rd rm hcrc hit,
    runT1_eq_runA1 (by decide) rn rd rm hcrc hit⟩

end Sys2Proof.Machine
end

section
/-! PROOFS. Exceptions (60_exceptions.md): what each class does at each test of its Decode block (R69, R74, R136), and from
that the UNDEFINED exception (R130, R137) and the UNPREDICTABLE cases (R132 to R135). -/

namespace Sys2Proof

open Sys2Proof.Config (ISet)

/-- An assembled instruction is an encoding of the instruction set it was assembled for, `cond` 1111 never written (R83). -/
theorem assemble_iset_wellFormed {iset : ISet} {l : AsmLine} {i : Instr} (h : assemble iset l = some i) :
    i.iset = iset ∧ i.wellFormed = true := by
  have hq : l.qualifier ≠ .narrow := fun hq => by simp [assemble_narrow iset hq] at h
  rw [assemble_omitted iset hq] at h
  obtain ⟨mn, q, rd, rn, rm⟩ := l
  cases iset <;> cases mn
  all_goals cases h
  all_goals exact ⟨rfl, rfl⟩

end Sys2Proof

namespace Sys2Proof.Machine

open Sys2Proof.Config (Params CondChoice)

/-! ### The resolutions and the pattern they record -/

theorem sizeOfSz_ne_64 {sz : BitVec 2} (h : sz ≠ 0b11#2) : sizeOfSz sz ≠ 64 := by
  revert sz
  decide

/-- Only the choice UNDEF makes the test of `cond` UNDEFINED (R135). -/
theorem resolveCond_ne_undefined {ch : Option CondChoice} (h : ch ≠ some .undef) (c : BitVec 4) (f : NZCV) :
    resolveCond ch c f ≠ .undefined := by
  by_cases hc : c = alwaysCondition
  · simp [hc]
  · cases ch with
    | none => simp [resolveCond_absent f hc]
    | some ch =>
      cases ch with
      | undef => exact absurd rfl h
      | nop => simp [resolveCond_nop f hc]
      | uncond => simp [resolveCond_uncond f hc]
      | cond => simp [resolveCond_cond f hc]

/-- The pattern of a resolution is recorded by the fault of the test itself and read by no other outcome. -/
theorem resolve_other_pattern {α : Type} {r : Resolution α} {p p' : Word} {s : State} {n : Result} {k : α → Result}
    (hn : ∀ f, n ≠ .fault f) (hk : ∀ a f, k a ≠ .fault f) :
    (∀ t, resolve r p s n k = .next t → resolve r p' s n k = .next t) ∧
    (∀ q, resolve r p s n k = .refused q → resolve r p' s n k = .refused q) ∧
    ∀ f, resolve r p s n k = .fault f → resolve r p' s n k = .fault (.undefined s.pc p') := by
  cases r with
  | proceed a => exact ⟨fun _ => id, fun _ => id, fun f h => absurd h (hk a f)⟩
  | undefined => exact ⟨fun _ => nofun, fun _ => nofun, fun _ _ => rfl⟩
  | nop => exact ⟨fun _ => id, fun _ => id, fun f h => absurd h (hn f)⟩
  | refuse q => exact ⟨fun _ => id, fun _ => id, fun _ => nofun⟩

/-- The three outcomes of a result and of its image, one by one. -/
theorem outcomes_of_eq_mapNext {g : State → State} {n n' : Result} (h : n' = mapNext g n) :
    (∀ t, n = .next t → n' = .next (g t)) ∧ (∀ q, n = .refused q → n' = .refused q) ∧
      ∀ f, n = .fault f → n' = .fault f := by
  subst h
  refine ⟨?_, ?_, ?_⟩
  all_goals
    rintro _ rfl
    rfl

/-! ### Class A1, test by test -/

/-- What class A1 does once the size is known: the test of `cond`, the `(0)` bits and the Execute block (R69, R71). -/
def fromCondA1 (sz : BitVec 2) (o : A1Operands) (s : State) (r : RegNums) (size : Nat) : Result :=
  resolve (resolveCond s.params.cuCond o.cond s.nzcv) (encodeA1 sz o) s (refuseShouldBeZero o (advancePc s))
    fun passed => refuseShouldBeZero o (executeBlock passed false size r s)

section ClassA1

variable {sz : BitVec 2} {o : A1Operands} {s : State} {r : RegNums}

theorem runA1_undefined (hcrc : s.params.haveCrc32 = false) :
    runA1 sz o s = .fault (.undefined s.pc (encodeA1 sz o)) := by
  simp [runA1, hcrc, raiseUndefined_eq]

theorem runA1_reg15 (hcrc : s.params.haveCrc32 = true) (h : o.rd = 15#4 ∨ o.rn = 15#4 ∨ o.rm = 15#4) :
    runA1 sz o s = .refused .unpredictableReg15 := by
  simp [runA1, hcrc, regNums_none.2 h]

/-- With the feature and no register 15, the test of the size is next. -/
theorem runA1_eq_resolveSize (hcrc : s.params.haveCrc32 = true) (hr : regNums o.rd o.rn o.rm = some r) :
    runA1 sz o s =
      resolve (resolveSize s.params.cuSize64 (sizeOfSz sz)) (encodeA1 sz o) s (refuseShouldBeZero o (advancePc s))
        (fromCondA1 sz o s r) := by
  simp only [runA1, hcrc, if_true, hr]
  rfl

/-- A size of 8, 16 or 32 leads to the test of `cond`. -/
theorem runA1_eq_fromCondA1 (hcrc : s.params.haveCrc32 = true) (hr : regNums o.rd o.rn o.rm = some r)
    (hsz : sizeOfSz sz ≠ 64) : runA1 sz o s = fromCondA1 sz o s r (sizeOfSz sz) := by
  rw [runA1_eq_resolveSize hcrc hr, resolveSize_proceed _ hsz, resolve_proceed]

/-- At `sz == 11` the choice `cu_size64` decides what is next (R134). -/
theorem execSize64A1_eq_resolveSize (hcrc : s.params.haveCrc32 = true) (hr : regNums o.rd o.rn o.rm = some r) :
    execSize64A1 o s =
      resolve (resolveSize s.params.cuSize64 64) (encodeA1 0b11#2 o) s (refuseShouldBeZero o (advancePc s))
        (fromCondA1 0b11#2 o s r) :=
  runA1_eq_resolveSize hcrc hr

/-- A NOP of the Decode block completes with the `(0)` bits zero (R71, R134, R135). -/
theorem nopA1_completes (hsbz : o.sbz = 0#3) (hp : s.pc.toNat + 4 < addressLimit) :
    refuseShouldBeZero o (advancePc s) = .next (completeAt s) := by
  rw [refuseShouldBeZero_zero _ hsbz, advancePc_eq hp]

theorem nopA1_no_fault (o : A1Operands) (s : State) (f : Fault) : refuseShouldBeZero o (advancePc s) ≠ .fault f :=
  fun h => advancePc_no_fault s f (refuseShouldBeZero_fault h).2

theorem executeA1_no_fault (passed : Bool) (size : Nat) (f : Fault) :
    refuseShouldBeZero o (executeBlock passed false size r s) ≠ .fault f :=
  fun h => executeBlock_no_fault passed false size r s f (refuseShouldBeZero_fault h).2

/-- With the feature and a size of 8, 16 or 32, only an UNDEF choice for `cond` raises an exception. -/
theorem runA1_no_fault (hsz : sizeOfSz sz ≠ 64) (hcrc : s.params.haveCrc32 = true)
    (hcu : s.params.cuCond ≠ some .undef) (f : Fault) : runA1 sz o s ≠ .fault f := by
  cases hr : regNums o.rd o.rn o.rm with
  | none => simp [runA1_reg15 hcrc (regNums_none.1 hr)]
  | some r =>
    rw [runA1_eq_fromCondA1 hcrc hr hsz]
    intro h
    obtain ⟨passed, -, h⟩ | ⟨hundef, -⟩ | ⟨-, h⟩ := resolve_fault h
    · exact executeA1_no_fault passed _ f h
    · exact resolveCond_ne_undefined hcu _ _ hundef
    · exact nopA1_no_fault o s f h

end ClassA1

/-! ### Class T1, test by test -/

section ClassT1

variable {sz : BitVec 2} {o : T1Operands} {s : State} {r : RegNums}

theorem runT1_itBlock (hit : s.inItBlock = true) : runT1 sz o s = .refused .unpredictableItBlock := by
  simp [runT1, hit]

theorem runT1_undefined (hit : s.inItBlock = false) (hcrc : s.params.haveCrc32 = false) :
    runT1 sz o s = .fault (.undefined s.pc (encodeT1 sz o)) := by
  simp [runT1, hit, hcrc, raiseUndefined_eq]

theorem runT1_reg15 (hit : s.inItBlock = false) (hcrc : s.params.haveCrc32 = true)
    (h : o.rd = 15#4 ∨ o.rn = 15#4 ∨ o.rm = 15#4) : runT1 sz o s = .refused .unpredictableReg15 := by
  simp [runT1, hit, hcrc, regNums_none.2 h]

/-- Outside an IT block, with the feature and no register 15, the test of the size is next, and it is the last one (R74). -/
theorem runT1_eq_resolveSize (hit : s.inItBlock = false) (hcrc : s.params.haveCrc32 = true)
    (hr : regNums o.rd o.rn o.rm = some r) :
    runT1 sz o s =
      resolve (resolveSize s.params.cuSize64 (sizeOfSz sz)) (encodeT1 sz o) s (advancePc s)
        fun size => executeBlock true false size r s := by
  simp [runT1, hit, hcrc, hr]

/-- At `sz == 11` the choice `cu_size64` decides what is next (R134). -/
theorem execSize64T1_eq_resolveSize (hit : s.inItBlock = false) (hcrc : s.params.haveCrc32 = true)
    (hr : regNums o.rd o.rn o.rm = some r) :
    execSize64T1 o s =
      resolve (resolveSize s.params.cuSize64 64) (encodeT1 0b11#2 o) s (advancePc s)
        fun size => executeBlock true false size r s :=
  runT1_eq_resolveSize hit hcrc hr

/-- With the feature and a size of 8, 16 or 32, class T1 raises no exception. -/
theorem runT1_no_fault (hsz : sizeOfSz sz ≠ 64) (hcrc : s.params.haveCrc32 = true) (f : Fault) :
    runT1 sz o s ≠ .fault f := by
  cases hit : s.inItBlock with
  | true => simp [runT1_itBlock hit]
  | false =>
    cases hr : regNums o.rd o.rn o.rm with
    | none => simp [runT1_reg15 hit hcrc (regNums_none.1 hr)]
    | some r =>
      rw [runT1_eq_resolveSize hit hcrc hr, resolveSize_proceed _ hsz, resolve_proceed]
      exact executeBlock_no_fault true false _ r s f

end ClassT1

/-! ### The UNDEFINED exception -/

/-- Settles O29: the feature is the first test of A1, and the first of T1 outside an IT block. -/
theorem undefinedWithoutTheFeature : Obligations.UndefinedWithoutTheFeature := by
  intro i s hcrc hit
  cases i with
  | crc32bA1 o => exact runA1_undefined hcrc
  | crc32hA1 o => exact runA1_undefined hcrc
  | crc32wA1 o => exact runA1_undefined hcrc
  | crc32bT1 o => exact runT1_undefined (hit rfl) hcrc
  | crc32hT1 o => exact runT1_undefined (hit rfl) hcrc
  | crc32wT1 o => exact runT1_undefined (hit rfl) hcrc

/-- Settles O30: no encoding has size 64, so the one UNDEF choice left is that for `cond`. -/
theorem noFaultWithTheFeature : Obligations.NoFaultWithTheFeature := by
  intro i s f hcrc hcu
  cases i with
  | crc32bA1 o => exact runA1_no_fault (by decide) hcrc hcu f
  | crc32hA1 o => exact runA1_no_fault (by decide) hcrc hcu f
  | crc32wA1 o => exact runA1_no_fault (by decide) hcrc hcu f
  | crc32bT1 o => exact runT1_no_fault (by decide) hcrc f
  | crc32hT1 o => exact runT1_no_fault (by decide) hcrc f
  | crc32wT1 o => exact runT1_no_fault (by decide) hcrc f

/-- Settles O31: whatever completes had the feature. -/
theorem nothingCompletesWithoutTheFeature : Obligations.NothingCompletesWithoutTheFeature := by
  intro s t hcrc h
  obtain ⟨rd, rn, rm, -, hcrc', -⟩ := step_completes h
  rw [hcrc] at hcrc'
  cases hcrc'

/-! ### Register 15, and the order of the tests -/

/-- Settles O33: the test of the register fields follows those of the feature and of the IT block, for every `sz`. -/
theorem register15IsRefused : Obligations.Register15IsRefused := by
  intro s hcrc
  refine ⟨fun i hit h => ?_, fun o => runA1_reg15 hcrc, fun o hit => runT1_reg15 hit hcrc⟩
  cases i with
  | crc32bA1 o => exact runA1_reg15 hcrc h
  | crc32hA1 o => exact runA1_reg15 hcrc h
  | crc32wA1 o => exact runA1_reg15 hcrc h
  | crc32bT1 o => exact runT1_reg15 (hit rfl) hcrc h
  | crc32hT1 o => exact runT1_reg15 (hit rfl) hcrc h
  | crc32wT1 o => exact runT1_reg15 (hit rfl) hcrc h

theorem execSize64A1_absent {o : A1Operands} {s : State} {r : RegNums} (hcrc : s.params.haveCrc32 = true)
    (hr : regNums o.rd o.rn o.rm = some r) (hcu : s.params.cuSize64 = none) :
    execSize64A1 o s = .refused .unpredictableSize64 := by
  rw [execSize64A1_eq_resolveSize hcrc hr, hcu, resolveSize_absent, resolve_refuse]

theorem execSize64T1_absent {o : T1Operands} {s : State} {r : RegNums} (hit : s.inItBlock = false)
    (hcrc : s.params.haveCrc32 = true) (hr : regNums o.rd o.rn o.rm = some r) (hcu : s.params.cuSize64 = none) :
    execSize64T1 o s = .refused .unpredictableSize64 := by
  rw [execSize64T1_eq_resolveSize hit hcrc hr, hcu, resolveSize_absent, resolve_refuse]

theorem runA1_cond_absent {sz : BitVec 2} {o : A1Operands} {s : State} {r : RegNums} (hcrc : s.params.haveCrc32 = true)
    (hr : regNums o.rd o.rn o.rm = some r) (hsz : sizeOfSz sz ≠ 64) (hcond : o.cond ≠ 0b1110#4)
    (hcu : s.params.cuCond = none) : runA1 sz o s = .refused .unpredictableCond := by
  rw [runA1_eq_fromCondA1 hcrc hr hsz, fromCondA1, hcu, resolveCond_absent _ hcond, resolve_refuse]

/-- Settles O38: each test, with the tests before it passed, is the outcome. -/
theorem firstTestReachedDecides : Obligations.FirstTestReachedDecides := by
  refine ⟨fun sz o s => ⟨runA1_undefined, runA1_reg15, ?size, ?cond⟩,
    fun sz o s => ⟨runT1_itBlock, runT1_undefined, runT1_reg15, ?sizeT1⟩⟩
  case size =>
    rintro hcrc hd hn hm rfl hcu
    obtain ⟨r, hr⟩ := exists_regNums_iff.2 ⟨hd, hn, hm⟩
    exact execSize64A1_absent hcrc hr hcu
  case cond =>
    intro hcrc hd hn hm hsz hcond hcu
    obtain ⟨r, hr⟩ := exists_regNums_iff.2 ⟨hd, hn, hm⟩
    exact runA1_cond_absent hcrc hr (sizeOfSz_ne_64 hsz) hcond hcu
  case sizeT1 =>
    rintro hit hcrc hd hn hm rfl hcu
    obtain ⟨r, hr⟩ := exists_regNums_iff.2 ⟨hd, hn, hm⟩
    exact execSize64T1_absent hit hcrc hr hcu

/-! ### The IT state -/

/-- The IT state is no input of class A1, and completion keeps it. -/
theorem sameInputs_inItBlock (s : State) (b : Bool) :
    SameInputs (fun t => { t with inItBlock := b }) s { s with inItBlock := b } where
  pc := rfl
  params := rfl
  read _ := rfl
  complete := rfl
  completeWrite _ _ := rfl

theorem exec_a32_inItBlock {i : Instr} (hi : i.iset = .a32) (s : State) (b : Bool) :
    exec i { s with inItBlock := b } = mapNext (fun t => { t with inItBlock := b }) (exec i s) :=
  (sameInputs_inItBlock s b).exec_congr fun hi' => by rw [hi] at hi'; cases hi'

/-- Settles O34: the IT block is the first test of T1, and A1 does not read the IT state. -/
theorem itBlockRefusesT1Only : Obligations.ItBlockRefusesT1Only := by
  refine ⟨fun o s hit => ⟨runT1_itBlock hit, runT1_itBlock hit, runT1_itBlock hit, runT1_itBlock hit⟩,
    fun i s t b hi => ?next, fun i s b r hi => ?refused, fun i s b f hi => ?fault, fun o s b => ?size64⟩
  case next =>
    obtain ⟨hnext, -, -⟩ := outcomes_of_eq_mapNext (exec_a32_inItBlock hi s b)
    exact hnext t
  case refused =>
    obtain ⟨-, hrefused, -⟩ := outcomes_of_eq_mapNext (exec_a32_inItBlock hi s b)
    exact hrefused r
  case fault =>
    obtain ⟨-, -, hfault⟩ := outcomes_of_eq_mapNext (exec_a32_inItBlock hi s b)
    exact hfault f
  case size64 => exact outcomes_of_eq_mapNext ((sameInputs_inItBlock s b).runA1_congr 0b11#2 o)

/-! ### The patterns with `sz == 11` -/

section Size64A1

variable {o : A1Operands} {s : State} {r : RegNums}

/-- UNDEF raises the same exception as the missing feature. -/
theorem execSize64A1_undef (hr : regNums o.rd o.rn o.rm = some r) (hcu : s.params.cuSize64 = some .undef) :
    execSize64A1 o s = .fault (.undefined s.pc (encodeA1 0b11#2 o)) := by
  cases hcrc : s.params.haveCrc32 with
  | false => exact runA1_undefined hcrc
  | true =>
    rw [execSize64A1_eq_resolveSize hcrc hr, hcu, resolveSize_undef, resolve_undefined, raiseUndefined_eq]

theorem execSize64A1_nop (hcrc : s.params.haveCrc32 = true) (hr : regNums o.rd o.rn o.rm = some r)
    (hcu : s.params.cuSize64 = some .nop) (hsbz : o.sbz = 0#3) (hp : s.pc.toNat + 4 < addressLimit) :
    execSize64A1 o s = .next (completeAt s) := by
  rw [execSize64A1_eq_resolveSize hcrc hr, hcu, resolveSize_nop, resolve_nop, nopA1_completes hsbz hp]

theorem execSize64A1_size32 (hcrc : s.params.haveCrc32 = true) (hr : regNums o.rd o.rn o.rm = some r)
    (hcu : s.params.cuSize64 = some .size32) : execSize64A1 o s = fromCondA1 0b11#2 o s r 32 := by
  rw [execSize64A1_eq_resolveSize hcrc hr, hcu, resolveSize_size32, resolve_proceed]

/-- With SIZE32 the pattern does what CRC32W does from the test of `cond` on, but for the pattern a fault records. -/
theorem execSize64A1_as_crc32w (hcrc : s.params.haveCrc32 = true) (hr : regNums o.rd o.rn o.rm = some r)
    (hcu : s.params.cuSize64 = some .size32) :
    (∀ t, exec (.crc32wA1 o) s = .next t → execSize64A1 o s = .next t) ∧
    (∀ q, exec (.crc32wA1 o) s = .refused q → execSize64A1 o s = .refused q) ∧
    ∀ f, exec (.crc32wA1 o) s = .fault f → execSize64A1 o s = .fault (.undefined s.pc (encodeA1 0b11#2 o)) := by
  have hw : exec (.crc32wA1 o) s = fromCondA1 0b10#2 o s r 32 := runA1_eq_fromCondA1 hcrc hr (by decide)
  rw [hw, execSize64A1_size32 hcrc hr hcu]
  exact resolve_other_pattern (nopA1_no_fault o s) fun passed => executeA1_no_fault passed 32

end Size64A1

section Size64T1

variable {o : T1Operands} {s : State} {r : RegNums}

theorem execSize64T1_undef (hit : s.inItBlock = false) (hr : regNums o.rd o.rn o.rm = some r)
    (hcu : s.params.cuSize64 = some .undef) :
    execSize64T1 o s = .fault (.undefined s.pc (encodeT1 0b11#2 o)) := by
  cases hcrc : s.params.haveCrc32 with
  | false => exact runT1_undefined hit hcrc
  | true =>
    rw [execSize64T1_eq_resolveSize hit hcrc hr, hcu, resolveSize_undef, resolve_undefined, raiseUndefined_eq]

theorem execSize64T1_nop (hit : s.inItBlock = false) (hcrc : s.params.haveCrc32 = true)
    (hr : regNums o.rd o.rn o.rm = some r) (hcu : s.params.cuSize64 = some .nop)
    (hp : s.pc.toNat + 4 < addressLimit) : execSize64T1 o s = .next (completeAt s) := by
  rw [execSize64T1_eq_resolveSize hit hcrc hr, hcu, resolveSize_nop, resolve_nop, advancePc_eq hp]

/-- In T1 nothing after the size can fault, so with SIZE32 the pattern and CRC32W are the same. -/
theorem execSize64T1_eq_crc32w (hit : s.inItBlock = false) (hcrc : s.params.haveCrc32 = true)
    (hr : regNums o.rd o.rn o.rm = some r) (hcu : s.params.cuSize64 = some .size32) :
    execSize64T1 o s = exec (.crc32wT1 o) s := by
  have hw : exec (.crc32wT1 o) s = executeBlock true false 32 r s := runT1_eq_resolveSize hit hcrc hr
  rw [hw, execSize64T1_eq_resolveSize hit hcrc hr, hcu, resolveSize_size32, resolve_proceed]

end Size64T1

/-- Settles O36: each choice in each class by its own lemma; the decoder selects by `sz`, and an assembled line has one of
the other three values. -/
theorem size64Choices : Obligations.Size64Choices := by
  refine ⟨fun o s hd hn hm => ?classA1, fun o s hit hd hn hm => ?classT1, fun w hclass hcond hsz => ?wordA1,
    fun w hclass hsz => ?wordT1, fun iset l i h => ?assembled⟩
  case classA1 =>
    obtain ⟨r, hr⟩ := exists_regNums_iff.2 ⟨hd, hn, hm⟩
    exact ⟨execSize64A1_undef hr, fun hcrc =>
      ⟨execSize64A1_nop hcrc hr, execSize64A1_as_crc32w hcrc hr, execSize64A1_absent hcrc hr⟩⟩
  case classT1 =>
    obtain ⟨r, hr⟩ := exists_regNums_iff.2 ⟨hd, hn, hm⟩
    exact ⟨execSize64T1_undef hit hr, fun hcrc =>
      ⟨execSize64T1_nop hit hcrc hr, execSize64T1_eq_crc32w hit hcrc hr, execSize64T1_absent hit hcrc hr⟩⟩
  case wordA1 =>
    rw [decode_a32_inClass hclass hcond, hsz]
    rfl
  case wordT1 =>
    rw [decode_t32_inClass hclass, hsz]
    rfl
  case assembled =>
    obtain ⟨rfl, hwf⟩ := assemble_iset_wellFormed h
    exact decode_encode hwf

/-! ### The conditions of class A1 -/

section CondA1

variable {sz : BitVec 2} {o : A1Operands} {s : State} {r : RegNums}

theorem runA1_cond_undef (hr : regNums o.rd o.rn o.rm = some r) (hsz : sizeOfSz sz ≠ 64) (hcond : o.cond ≠ 0b1110#4)
    (hcu : s.params.cuCond = some .undef) : runA1 sz o s = .fault (.undefined s.pc (encodeA1 sz o)) := by
  cases hcrc : s.params.haveCrc32 with
  | false => exact runA1_undefined hcrc
  | true =>
    rw [runA1_eq_fromCondA1 hcrc hr hsz, fromCondA1, hcu, resolveCond_undef _ hcond, resolve_undefined,
      raiseUndefined_eq]

theorem runA1_cond_nop (hcrc : s.params.haveCrc32 = true) (hr : regNums o.rd o.rn o.rm = some r)
    (hsz : sizeOfSz sz ≠ 64) (hcond : o.cond ≠ 0b1110#4) (hcu : s.params.cuCond = some .nop) (hsbz : o.sbz = 0#3)
    (hp : s.pc.toNat + 4 < addressLimit) : runA1 sz o s = .next (completeAt s) := by
  rw [runA1_eq_fromCondA1 hcrc hr hsz, fromCondA1, hcu, resolveCond_nop _ hcond, resolve_nop, nopA1_completes hsbz hp]

/-- UNCOND and `cond` 1110 both pass the condition check, and `cond` is read by nothing after it. -/
theorem runA1_cond_uncond (hcrc : s.params.haveCrc32 = true) (hr : regNums o.rd o.rn o.rm = some r)
    (hsz : sizeOfSz sz ≠ 64) (hcond : o.cond ≠ 0b1110#4) (hcu : s.params.cuCond = some .uncond) :
    runA1 sz o s = runA1 sz { o with cond := 0b1110#4 } s := by
  have hpass : resolveCond (some .uncond) 0b1110#4 s.nzcv = .proceed true := resolveCond_always _ _
  rw [runA1_eq_fromCondA1 hcrc hr hsz, runA1_eq_fromCondA1 (o := { o with cond := 0b1110#4 }) hcrc hr hsz, fromCondA1,
    fromCondA1, hcu, resolveCond_uncond _ hcond, hpass]
  rfl

theorem runA1_cond_cond (hcrc : s.params.haveCrc32 = true) (hr : regNums o.rd o.rn o.rm = some r)
    (hsz : sizeOfSz sz ≠ 64) (hcond : o.cond ≠ 0b1110#4) (hcu : s.params.cuCond = some .cond) :
    runA1 sz o s = .refused .conditionTableAbsent := by
  rw [runA1_eq_fromCondA1 hcrc hr hsz, fromCondA1, hcu, resolveCond_cond _ hcond, resolve_refuse]

end CondA1

/-! ### Class T1 and the choice for `cond` -/

/-- The state of an implementation with the parameters `p`. -/
def State.setParams (s : State) (p : Params) : State :=
  { s with params := p }

/-- An advance keeps the parameters and does not read them. -/
theorem advancePc_setParams (s : State) (p : Params) :
    advancePc (s.setParams p) = mapNext (·.setParams p) (advancePc s) :=
  advancePc_mapNext rfl rfl

/-- Class T1 has no test of `cond`: of the parameters it reads the feature and the choice for the size only. -/
theorem runT1_setParams (sz : BitVec 2) (o : T1Operands) {s : State} {p : Params}
    (hfeature : p.haveCrc32 = s.params.haveCrc32) (hsize : p.cuSize64 = s.params.cuSize64) :
    runT1 sz o (s.setParams p) = mapNext (·.setParams p) (runT1 sz o s) := by
  cases hit : s.inItBlock with
  | true => rw [runT1_itBlock hit, runT1_itBlock (s := s.setParams p) hit, mapNext_refused]
  | false =>
    cases hcrc : s.params.haveCrc32 with
    | false =>
      rw [runT1_undefined hit hcrc, runT1_undefined (s := s.setParams p) hit (hfeature.trans hcrc), mapNext_fault]
      rfl
    | true =>
      have hcrc' : (s.setParams p).params.haveCrc32 = true := hfeature.trans hcrc
      cases hr : regNums o.rd o.rn o.rm with
      | none =>
        have h15 := regNums_none.1 hr
        rw [runT1_reg15 hit hcrc h15, runT1_reg15 (s := s.setParams p) hit hcrc' h15, mapNext_refused]
      | some r =>
        have hsize' : (s.setParams p).params.cuSize64 = s.params.cuSize64 := hsize
        rw [runT1_eq_resolveSize hit hcrc hr, runT1_eq_resolveSize (s := s.setParams p) hit hcrc' hr, hsize']
        cases resolveSize s.params.cuSize64 (sizeOfSz sz) with
        | proceed size => exact advancePc_setParams (writeReg s r.d _) p
        | undefined => rfl
        | nop => exact advancePc_setParams s p
        | refuse q => rfl

theorem exec_t32_setParams {i : Instr} (hi : i.iset = .t32) {s : State} {p : Params}
    (hfeature : p.haveCrc32 = s.params.haveCrc32) (hsize : p.cuSize64 = s.params.cuSize64) :
    exec i (s.setParams p) = mapNext (·.setParams p) (exec i s) := by
  cases i with
  | crc32bA1 o => cases hi
  | crc32hA1 o => cases hi
  | crc32wA1 o => cases hi
  | crc32bT1 o => exact runT1_setParams _ o hfeature hsize
  | crc32hT1 o => exact runT1_setParams _ o hfeature hsize
  | crc32wT1 o => exact runT1_setParams _ o hfeature hsize

/-- The three A1 encodings are class A1 at a size other than 64. -/
theorem exec_A1_eq_runA1 {mk : A1Operands → Instr}
    (h : mk = Instr.crc32bA1 ∨ mk = Instr.crc32hA1 ∨ mk = Instr.crc32wA1) :
    ∃ sz, sizeOfSz sz ≠ 64 ∧ (∀ o s, exec (mk o) s = runA1 sz o s) ∧ ∀ o, encode (mk o) = encodeA1 sz o := by
  obtain rfl | rfl | rfl := h
  · exact ⟨0b00#2, by decide, fun _ _ => rfl, fun _ => rfl⟩
  · exact ⟨0b01#2, by decide, fun _ _ => rfl, fun _ => rfl⟩
  · exact ⟨0b10#2, by decide, fun _ _ => rfl, fun _ => rfl⟩

/-- Settles O37: each choice by its own lemma; a word with `cond == 1111` fails the class test, and T1 reads no choice. -/
theorem conditionChoices : Obligations.ConditionChoices := by
  refine ⟨fun mk o s hmk hcond _ hd hn hm => ?choices, fun w i hcond h => ?cond1111,
    fun i s c hi => outcomes_of_eq_mapNext (exec_t32_setParams hi rfl rfl),
    fun o s c => outcomes_of_eq_mapNext (runT1_setParams 0b11#2 o rfl rfl)⟩
  case choices =>
    obtain ⟨sz, hsz, hexec, henc⟩ := exec_A1_eq_runA1 hmk
    obtain ⟨r, hr⟩ := exists_regNums_iff.2 ⟨hd, hn, hm⟩
    rw [henc, hexec, hexec]
    exact ⟨runA1_cond_undef hr hsz hcond, fun hcrc => ⟨runA1_cond_nop hcrc hr hsz hcond,
      runA1_cond_uncond hcrc hr hsz hcond, runA1_cond_cond hcrc hr hsz hcond, runA1_cond_absent hcrc hr hsz hcond⟩⟩
  case cond1111 =>
    obtain ⟨-, hne, -⟩ := decode_a32_instr h
    exact hne hcond

end Sys2Proof.Machine
end

section
/-! PROOFS. Reset and hazards (70_reset_and_hazards.md): the end of a run (R153). -/

namespace Sys2Proof.Machine

/-! ### The final states -/

theorem final_iff {s : State} : s.Final ↔ pcAligned s = true ∧ atRunEnd s = true := by
  rw [State.Final, atRunEnd_iff]
  exact and_left_comm

theorem fetch_eq_runOver_iff {s : State} : fetch s = .error .runOver ↔ atRunEnd s = true := by
  refine ⟨fun h => ?_, fetch_runEnd⟩
  obtain ⟨-, hend⟩ | ⟨-, a, hf, -⟩ := fetch_error h
  · exact hend
  · cases hf

theorem step_eq_runOver_iff {s : State} : step s = .fault .runOver ↔ pcAligned s = true ∧ fetch s = .error .runOver := by
  refine ⟨fun h => ?_, fun ⟨hal, hfetch⟩ => step_eq_fault hal hfetch⟩
  obtain ⟨hal, ⟨p, hf⟩ | hfetch⟩ := runStep_fault h
  · cases hf
  · exact ⟨hal, hfetch⟩

/-- Alignment is kept whatever the text is: the step itself has tested that of `s`. -/
theorem step_next_pcAligned {s t : State} (h : step s = .next t) : pcAligned t = true := by
  obtain ⟨hal, -⟩ := runStep_next h
  obtain ⟨⟨-, -, -, hiset, -, -⟩, hpc, -⟩ := stepChangesOneRegisterAndPc s t h
  rw [pcAligned_iff, hiset, hpc]
  exact Nat.dvd_add (pcAligned_iff.1 hal) (pcAlignment_dvd_four s.iset)

/-- A completed step leaves only one of the three conditions of a final state open. -/
theorem final_iff_of_step {s t : State} (h : step s = .next t) : t.Final ↔ textEnd t.mem = some t.pc.toNat := by
  obtain ⟨-, -, hdone, -⟩ := stepChangesOneRegisterAndPc s t h
  exact ⟨fun ⟨_, _, hend⟩ => hend, fun hend => ⟨hdone, step_next_pcAligned h, hend⟩⟩

/-- Settles O48: only the fetch raises `runOver`, past the test of alignment and at the end of a run alone. -/
theorem runIsOverAtTheEndOfTheText : Obligations.RunIsOverAtTheEndOfTheText := by
  refine ⟨fun s => ?_, fun s t => final_iff_of_step⟩
  rw [final_iff, step_eq_runOver_iff, fetch_eq_runOver_iff]

/-! ### The run of a text -/

/-- A run of at least one step ends with a completed step. -/
theorem runSteps_succ_last {k : Nat} {s t : State} (h : runSteps (k + 1) s = .next t) : ∃ u, step u = .next t := by
  induction k generalizing s with
  | zero =>
    obtain ⟨u, hstep, hrun⟩ := runSteps_succ_next h
    cases hrun
    exact ⟨s, hstep⟩
  | succ k ih =>
    obtain ⟨u, -, hrun⟩ := runSteps_succ_next h
    exact ih hrun

/-- The end of a text placed in an empty memory. -/
theorem textEnd_placed {a : Nat} {bs : List Byte} (hne : bs ≠ []) (h : a + bs.length ≤ addressLimit) :
    textEnd (writeBytes [] a bs) = some (a + bs.length) := by
  rw [textEnd_writeBytes bs [] hne h, textEnd, Option.getD_none, Nat.max_zero]

/-- Settles O49: `pc` reaches the end of the text with step `k`, and after `j < k` steps it is still below. That the `k`
steps complete bounds the text by the address space. -/
theorem programEndsAfterItsLastInstruction : Obligations.ProgramEndsAfterItsLastInstruction := by
  intro k s t text hk hlen hmem hrun
  obtain ⟨hpc, -, -, -, -, -, htmem⟩ := runsAreStraightLines k s t hrun
  have hbound : s.pc.toNat + text.length ≤ addressLimit := by
    rw [hlen, ← hpc]
    exact Nat.le_of_lt t.pc.isLt
  have hend : textEnd s.mem = some (s.pc.toNat + 4 * k) := by
    rw [hmem, textEnd_placed (List.ne_nil_of_length_pos (by omega)) hbound, hlen]
  refine ⟨hend, ?final, fun j u hj hrunj hfin => ?before⟩
  case final =>
    obtain ⟨n, rfl⟩ := Nat.exists_eq_add_one.2 hk
    obtain ⟨u, hlast⟩ := runSteps_succ_last hrun
    rw [final_iff_of_step hlast, htmem, hend, hpc]
  case before =>
    obtain ⟨-, -, hendj⟩ := hfin
    obtain ⟨hpcj, -, -, -, -, -, humem⟩ := runsAreStraightLines j s u hrunj
    rw [humem, hend, hpcj, Option.some.injEq] at hendj
    omega

end Sys2Proof.Machine
end

section
/-! PROOFS. Fixed data: the byte rows of 95_test_vectors.md section 3.1, and the state after reset (R45). -/

namespace Sys2Proof

open Sys2Proof.Config (ISet)

/-! ### The rows of section 3.1 -/

/-- Bytes that encode a well-formed instruction decode to it. -/
theorem decodeBytes_of_encodeBytes_eq {iset : ISet} {bs : List Byte} {i : Instr} (hset : i.iset = iset)
    (hwf : i.wellFormed = true) (hbytes : encodeBytes i = bs) : decodeBytes iset bs = .instr i := by
  rw [← hset, ← hbytes]
  exact decodeBytesOfEncodeBytes i hwf

/-- Settles O6: the bytes of each row are those the encoder gives for its instruction, so the decoder reads it back. -/
theorem specBytesDecode : Obligations.SpecBytesDecode := by
  refine ⟨?_, ?_, ?_, ?_, ?_, ?_⟩ <;> exact decodeBytes_of_encodeBytes_eq rfl (by decide) (by decide)

end Sys2Proof

namespace Sys2Proof.Machine

/-! ### The state after reset -/

theorem readReg_reset (i : Fin 15) : readReg State.reset i = 0#32 :=
  Vector.getElem_replicate i.isLt

/-- No address holds a byte of the empty text, inside the address space or outside it. -/
theorem readByte_nil (a : Nat) : readByte [] a = none :=
  if h : a < addressLimit then readByte_eq h else readByte_outside (Nat.le_of_not_lt h)

/-- `pc` is 0 after reset, which is aligned for every instruction set. -/
theorem reset_pcAligned : pcAligned State.reset = true :=
  pcAligned_iff.2 (Nat.dvd_zero _)

/-- Settles O43: the empty text is canonical. -/
theorem resetIsLegal : Obligations.ResetIsLegal :=
  ⟨reset_mem_wf, reset_pcAligned⟩

/-- Settles O50: the registers and the text by the rules for reading them; the other fields are the values listed. -/
theorem resetValuesTheModelChose : Obligations.ResetValuesTheModelChose :=
  ⟨readReg_reset, rfl, rfl, rfl, rfl, rfl, rfl, rfl, readByte_nil⟩

end Sys2Proof.Machine
end
